-- ==== Sys2Proof/Word.lean ====
section
/-! DEFINITION. The fixed widths of the block (spec/00_scope.md R9, R18; spec/10_state.md R31). -/

namespace Sys2Proof

/-- DATA_W = 8 bits: one bus byte, one command byte, one response byte (R9). -/
abbrev Byte := BitVec 8

/-- ADDR_W = 16 bits: an address of the cartridge bus (R9, R50). -/
abbrev Word16 := BitVec 16

/-- The width of CUR, so that `END + 1` is representable (R31, R152). -/
abbrev Cursor := BitVec 17

/-- BANK_W = 9 bits: a bank index or a bank count, up to 256 (R9, R31). -/
abbrev BankNo := BitVec 9

end Sys2Proof
end

