-- ==== Sys2Proof/Syntax.lean ====
section
/-! DEFINITION. The instruction set: the one-byte command protocol (spec/30_encoding.md R70 to R73), one
constructor per row of spec/opcode_table.json. -/

namespace Sys2Proof

/-- A command of the block. No command carries an operand (R71); the last row stands for the 248 byte
values that are not commands, so its constructor holds the byte (R73, R77 `BYTE 0xNN`). -/
inductive Instr where
  /-- 0x01, connection probe (R185). -/
  | probe
  /-- 0x02, read the cartridge-type byte (R186). -/
  | rdtype
  /-- 0x03, read the ROM-size byte (R187). -/
  | rdromsz
  /-- 0x04, read the GBC-flag byte (R188). -/
  | rdgbc
  /-- 0x05, read the title field (R189). -/
  | rdtitle
  /-- 0x06, read the logo field (R190). -/
  | rdlogo
  /-- 0x07, read the full ROM image (R191). -/
  | dump
  /-- 0x08, read the checksum field (R192). -/
  | rdcksum
  /-- Every other byte: consumed and discarded (R193). -/
  | ignored (byte : Byte)
deriving DecidableEq, Repr

end Sys2Proof
end

