-- ==== Sys2Proof/WellFormed.lean ====
section
/-! DEFINITION. Which instruction terms stand for a byte of the command map (spec/30_encoding.md R72, R73). -/

namespace Sys2Proof

/-- The byte is one of the 8 command numbers 0x01 to 0x08 (R72). -/
def isCommandByte (c : Byte) : Bool := 0x01#8 ≤ c && c ≤ 0x08#8

/-- Every constructor but the last is one row of the map; an ignored byte is a byte that no other row
takes (R73). -/
def Instr.wellFormed : Instr → Bool
  | .probe | .rdtype | .rdromsz | .rdgbc | .rdtitle | .rdlogo | .dump | .rdcksum => true
  | .ignored byte => !isCommandByte byte

end Sys2Proof
end

