-- ==== Sys2Proof/Decode.lean ====
section
/-! DEFINITION. The decoder, total on any bytes, and the encoder, both from the command map
(spec/30_encoding.md R72). -/

namespace Sys2Proof

/-- Why no instruction is read from a list of bytes. -/
inductive DecodeError where
  /-- There is no byte to decode: one command is exactly one byte (R70). -/
  | noByte
deriving DecidableEq, Repr

/-- The eight rows of the command map (R72). -/
def commandMap : List (Byte × Instr) :=
  [(0x01#8, .probe), (0x02#8, .rdtype), (0x03#8, .rdromsz), (0x04#8, .rdgbc),
   (0x05#8, .rdtitle), (0x06#8, .rdlogo), (0x07#8, .dump), (0x08#8, .rdcksum)]

/-- The match is on all 8 bits (R72); a byte that no row takes is ignored (R73, the table's row of lowest
priority). -/
def decodeByte (c : Byte) : Instr :=
  match commandMap.lookup c with
  | some i => i
  | none => .ignored c

/-- One command is one byte, with no prefix and no framing (R70, R75). -/
def decode : List Byte → Except DecodeError (Instr × List Byte)
  | [] => .error .noByte
  | c :: rest => .ok (decodeByte c, rest)

/-- The byte of an instruction (R72). -/
def encodeByte : Instr → Byte
  | .probe => 0x01#8
  | .rdtype => 0x02#8
  | .rdromsz => 0x03#8
  | .rdgbc => 0x04#8
  | .rdtitle => 0x05#8
  | .rdlogo => 0x06#8
  | .dump => 0x07#8
  | .rdcksum => 0x08#8
  | .ignored byte => byte

/-- The bytes of an instruction: always one (R70). -/
def encode (i : Instr) : List Byte := [encodeByte i]

/-- The command byte that stands in the low `nbits` bits of `w`, every bit above them zero. -/
def tableByte (nbits w : Nat) : Byte := BitVec.ofNat 8 (w % 2 ^ nbits)

/-- What the decoder reads from an instruction whose bits are `w` (one word of one byte, R70). -/
def decodeTableWord (nbits w : Nat) : Option Instr :=
  match decode [tableByte nbits w] with
  | .ok (i, _) => some i
  | .error _ => none

end Sys2Proof
end

