-- ==== Sys2Proof/Config.lean ====
section
/-! DEFINITION. What an implementation fixes (spec/00_scope.md R9, the OPEN parameters) and the free values
(spec/93_implementation_defined.md items 1 to 5). -/

namespace Sys2Proof

/-- The OPEN parameters of R9, fixed when the block is built (R243). -/
structure Params where
  /-- F_CLK, in hertz (D1). -/
  fClkHz : Nat
  /-- T_SETTLE_MIN, in nanoseconds (R9; the reference 50 µs is unaudited). -/
  tSettleMinNs : Nat
  /-- SETTLE_CYCLES, in clock periods (R9, D2). -/
  settleCycles : Nat
  /-- STROBE_ACTIVE_LOW (R22, D3). -/
  strobeActiveLow : Bool
deriving DecidableEq, Repr

/-- Nanoseconds in a second. -/
@[irreducible] def nsPerSecond : Nat := 1000000000

/-- The constraint of R9: SETTLE_CYCLES ≥ 1 and SETTLE_CYCLES / F_CLK ≥ T_SETTLE_MIN. -/
abbrev Params.admissible (p : Params) : Prop :=
  1 ≤ p.settleCycles ∧ p.tSettleMinNs * p.fClkHz ≤ nsPerSecond * p.settleCycles

namespace Config

/-- F_CLK less one hertz: free (93 item 5). DESIGN CHOICE, log 8. -/
opaque fClkHzPred : Nat

/-- SETTLE_CYCLES less one: free (93 item 3). DESIGN CHOICE, log 8. -/
opaque settleCyclesPred : Nat

/-- T_SETTLE_MIN, where SETTLE_CYCLES clocks are long enough for it: free (93 item 3). DESIGN CHOICE, log 8. -/
opaque tSettleMinNs : Nat

/-- STROBE_ACTIVE_LOW: free (93 item 4). DESIGN CHOICE, log 8. -/
opaque strobeActiveLow : Bool

/-- The byte the environment drives at the n-th sample of a location whose contents are not known: free,
under no law (93 items 1 and 2; R26, D15). DESIGN CHOICE, log 4. -/
opaque busDraw : Nat → Byte

/-- The parameters of the block as built: F_CLK and SETTLE_CYCLES are positive and T_SETTLE_MIN is at most
SETTLE_CYCLES / F_CLK (R9), whatever the free values are. -/
def params : Params :=
  { fClkHz := fClkHzPred + 1
    tSettleMinNs := min tSettleMinNs (nsPerSecond * (settleCyclesPred + 1) / (fClkHzPred + 1))
    settleCycles := settleCyclesPred + 1
    strobeActiveLow := strobeActiveLow }

end Config

end Sys2Proof
end

