-- ==== Sys2Proof/Machine/State.lean ====
section
/-! DEFINITION. The machine's state as plain data (spec/10_state.md), its events (spec/00_scope.md R14), the
reasons a step can stop, and the state after reset (spec/70_reset_and_hazards.md R240). -/

namespace Sys2Proof.Machine

/-- The bus mode (R21). -/
inductive Mode where
  | read
  | write
deriving DecidableEq, Repr

/-- The direction of the data lines, seen from the block (R24). -/
inductive Dir where
  | input
  | output
deriving DecidableEq, Repr

/-- The dispatcher's state (R28). -/
inductive DState where
  | idle
  | executing
deriving DecidableEq, Repr

/-- The status-indicator level (R30). -/
inductive Status where
  | off
  | blinking
deriving DecidableEq, Repr

/-- Which part of the region is being emitted (R31). -/
inductive Phase where
  | none
  | single
  | range
  | base
  | romSize
  | select
  | bankWin
  | done
deriving DecidableEq, Repr

/-- The outcome with which the iterator ended (R150, R153 `Done`). -/
inductive IterEnd where
  | ended
  | aborted
deriving DecidableEq, Repr

/-- The sequencer's position within the current bus primitive (R33): the micro-step the next clock edge
takes. -/
inductive Micro where
  /-- No bus primitive is in progress. -/
  | none
  /-- MemRead: the address step (R103). -/
  | readAddr
  /-- MemRead: inside the settle wait. -/
  | readSettle
  /-- MemRead: the sample step. -/
  | readSample
  /-- MemWrite: the address step (R105). -/
  | writeAddr
  /-- MemWrite: inside the settle wait. -/
  | writeSettle
  /-- MemWrite: the drive step. -/
  | writeDrive
  /-- selectBank: SetMode(Write) (R131). -/
  | pulseWrite
  /-- selectBank: inside the settle wait of the Write pulse. -/
  | pulseSettle
  /-- selectBank: SetMode(Read). -/
  | pulseRead
deriving DecidableEq, Repr

/-- The trace events of R14. -/
inductive Event where
  | accept (c : Byte)
  | dir (d : Dir)
  | addr (a : Word16)
  | settle
  | sample (a : Word16) (v : Byte)
  | drive (v : Byte)
  | mode (m : Mode)
  | send (v : Byte)
  | status (s : Status)
deriving DecidableEq, Repr

/-- Input levels at one clock edge (R36). DESIGN CHOICE, log 2. -/
structure Pins where
  /-- rst, synchronous, active high. -/
  rst : Bool
  /-- The transport raises cmd_valid if it holds a byte. -/
  offer : Bool
  /-- rsp_ready. -/
  rspReady : Bool
deriving DecidableEq, Repr

/-- The cartridge as the block reaches it: the environment's, not the block's (R8, R34). -/
structure Cart where
  /-- The locations whose byte is known; every other location reads as a draw (log 4). -/
  cells : List Host.Cell
  /-- The cartridge's bank register (R34). Log 5. -/
  bankReg : Byte
deriving DecidableEq, Repr

/-- What stands outside the block. -/
structure Env where
  /-- The input levels at the next clock edge. -/
  pins : Pins
  /-- The input levels at the edges after it; the last levels stay. -/
  upcoming : List Pins
  /-- The command bytes the transport holds for the block, in order (R184, R232). -/
  rx : List Byte
  cart : Cart
  /-- How many samples have been taken: the index of the next free value. -/
  draws : Nat
deriving DecidableEq, Repr

/-- The whole machine: the registers of spec/10_state.md, then the environment and the observation. -/
structure State where
  /-- The parameters of R9; no step writes them (R243). -/
  params : Params
  /-- MODE (R21). -/
  mode : Mode
  /-- ADDR (R23). -/
  addr : Word16
  /-- DDIR (R24). -/
  ddir : Dir
  /-- DOUT (R25). -/
  dout : Byte
  /-- SETTLE_CNT (R27). -/
  settleCnt : Nat
  /-- DSTATE (R28). -/
  dstate : DState
  /-- CMD (R29). -/
  cmd : Byte
  /-- STATUS (R30). -/
  status : Status
  /-- RSP (R32). -/
  rsp : Byte
  /-- RSP_VALID (R32). -/
  rspValid : Bool
  /-- PHASE (R31). -/
  phase : Phase
  /-- CUR (R31). -/
  cur : Cursor
  /-- END (R31). -/
  endAddr : Word16
  /-- BANK (R31). -/
  bank : BankNo
  /-- NBANKS (R31). -/
  nbanks : BankNo
  /-- ROMCODE (R31). -/
  romcode : Byte
  /-- The outcome the iterator last returned (R153). Log 14. -/
  iterEnd : IterEnd
  /-- The position within the current primitive (R33). Log 14. -/
  micro : Micro
  /-- The environment (R8, R36). -/
  env : Env
  /-- The event trace, oldest first (R13). -/
  trace : List Event
  /-- Reference clocks spent (R250). Log 10. -/
  clocks : Nat
deriving DecidableEq, Repr

/-- Why the machine stops. The hardware has no fault (R220): each constructor says that a state has left
the spec, and no state reached from reset raises one. -/
inductive Fault where
  /-- Raised where MemRead starts with MODE = Write (R104, D25). Safe: the block never does. -/
  | readInWriteMode
  /-- Raised where selectBank starts with MODE = Write (R131 asserts Read). Safe: the block never does.
  DEDUCED, log 12. -/
  | selectInWriteMode
  /-- Raised where the sequencer stands at a position no rule lists: Executing without a region and
  without a probe, or a sample in a phase that reads nothing (R33, R158). Safe: the block never does.
  DEDUCED, log 13. -/
  | noRegion
deriving DecidableEq, Repr

/-- Why an instruction has no meaning. -/
inductive Refusal where
  /-- The instruction of this mnemonic is not modelled. Safe. No arm of `exec` raises it. -/
  | notModelled (mnemonic : String)
deriving DecidableEq, Repr

/-- The environment at power-up: no reset, a prompt transport with no byte, a cartridge of which nothing
is known (logs 2 to 5). -/
def Env.powerUp : Env where
  pins := { rst := false, offer := true, rspReady := true }
  upcoming := []
  rx := []
  cart := { cells := [], bankReg := 0x01#8 }
  draws := 0

/-- The machine right after reset (R38, R240). ADDR, DOUT, CMD, RSP, CUR, END, BANK, NBANKS and ROMCODE
have no reset value in the spec: DESIGN CHOICE zero, log 6. -/
def State.reset : State where
  params := Config.params
  mode := .read
  addr := 0#16
  ddir := .input
  dout := 0#8
  settleCnt := 0
  dstate := .idle
  cmd := 0#8
  status := .off
  rsp := 0#8
  rspValid := false
  phase := .none
  cur := 0#17
  endAddr := 0#16
  bank := 0#9
  nbanks := 0#9
  romcode := 0#8
  iterEnd := .ended
  micro := .none
  env := Env.powerUp
  trace := []
  clocks := 0

end Sys2Proof.Machine
end

