-- ==== Sys2Proof/Machine/Ops.lean ====
section
/-! DEFINITION. The shared operations: the cartridge's locations and the byte a sample sees, events and
clocks, the inputs, sending a byte, ending a command, the abort and reset. -/

namespace Sys2Proof.Machine

/-! ### Cartridge locations

A location is an address of the 16-bit bus as seen through the bank mapping (R50): an address of the bank
window names one location per bank, every other address names one location (R52). -/

/-- The bank window 0x4000 to 0x7FFF (R16, R52). -/
def inBankWindow (a : Word16) : Bool := 0x4000#16 ≤ a && a ≤ 0x7FFF#16

/-- The location an address names while the cartridge's bank register holds `bankReg` (R50, R52):
`{bankReg, a}` in the bank window, `a` outside it. -/
def location (bankReg : Byte) (a : Word16) : Nat :=
  if inBankWindow a then bankReg.toNat * 0x10000 + a.toNat else a.toNat

/-- The number is a location of some bank and some address. -/
def isLocation (k : Nat) : Bool :=
  k < 0x10000 || (k < 0x1000000 && inBankWindow (BitVec.ofNat 16 k))

/-- A cartridge's known contents: (location, byte) pairs. -/
abbrev Memory := List Host.Cell

/-- The known byte of a location; an unlisted location has none, and reads as a free draw (R26, log 4). -/
def Memory.read : Memory → Nat → Option Byte
  | [], _ => none
  | (k, v) :: rest, n => if k = n then some v else Memory.read rest n

/-- Make a byte known. Only the set-up of a cartridge uses it: the block writes no location (R51). -/
def Memory.write : Memory → Nat → Byte → Memory
  | [], n, b => [(n, b)]
  | (k, v) :: rest, n, b =>
    if n < k then (n, b) :: (k, v) :: rest
    else if n = k then (n, b) :: rest
    else (k, v) :: Memory.write rest n b

/-- Make a byte unknown again. -/
def Memory.forget : Memory → Nat → Memory
  | [], _ => []
  | (k, v) :: rest, n => if k = n then rest else (k, v) :: Memory.forget rest n

/-- Every entry lies above `n`, in strictly rising order, at a location. -/
def Memory.wfAbove (n : Nat) : Memory → Bool
  | [] => true
  | (k, _) :: rest => n < k && isLocation k && Memory.wfAbove k rest

/-- The canonical form: locations strictly rising. No entry can equal what an unlisted location reads as,
since that is no byte. -/
def Memory.wf : Memory → Bool
  | [] => true
  | (k, _) :: rest => isLocation k && Memory.wfAbove k rest

/-- The known byte the cartridge shows at an address through its current bank mapping (R50, R52). -/
def Cart.knownByte (c : Cart) (a : Word16) : Option Byte :=
  Memory.read c.cells (location c.bankReg a)

/-- The byte the environment drives when the data lines are sampled at address `a` (R26): the known byte,
or a draw under no law (D15, log 4). -/
def Env.busByte (e : Env) (a : Word16) : Byte :=
  match e.cart.knownByte a with
  | some v => v
  | none => Config.busDraw e.draws

/-- BANK_SELECT_ADDR (R9, R131). -/
def bankSelectAddr : Word16 := 0x2000#16

/-- The cartridge's side of a mode change: its bank register takes the data lines when the block enters
Write mode with the bank-select address on the address lines and the data lines driven (R34, R60; the
moment is that of the fixture cartridge of 95_test_vectors.md §0). DESIGN CHOICE, log 5. -/
def Cart.onMode (c : Cart) (m : Mode) (a : Word16) (d : Dir) (data : Byte) : Cart :=
  match m, d with
  | .write, .output => if a = bankSelectAddr then { c with bankReg := data } else c
  | _, _ => c

/-! ### Events, clocks and inputs -/

/-- Emit one trace event (R14); each costs one reference clock (R250), and the last edge of a settle wait
is that of its event. -/
def emit (e : Event) (s : State) : State :=
  { s with trace := s.trace ++ [e], clocks := s.clocks + 1 }

/-- Emit the events of a list, in order. -/
def emitAll (es : List Event) (s : State) : State :=
  { s with trace := s.trace ++ es, clocks := s.clocks + es.length }

/-- A clock edge at which the block only waits or polls: one clock, no event. -/
def wait (s : State) : State := { s with clocks := s.clocks + 1 }

/-- The environment sets the input levels of the next edge; after the last scheduled ones they stay.
DESIGN CHOICE, log 2. -/
def Env.advance (e : Env) : Env :=
  match e.upcoming with
  | [] => e
  | p :: rest => { e with pins := p, upcoming := rest }

/-- The state with its environment moved on to the next edge. -/
def advanceInputs (s : State) : State := { s with env := s.env.advance }

/-! ### The response byte (R32, R182) -/

/-- `Send(v)` begins: the byte is placed in RSP, and every other step waits until it is taken (R182). -/
def offerByte (v : Byte) (s : State) : State := { s with rsp := v, rspValid := true }

/-- `Send(v)` ends: the transport takes the byte at an edge with rsp_ready = 1 (R182). -/
def byteTaken (s : State) : State := emit (.send s.rsp) { s with rspValid := false }

/-! ### Start and end of a command -/

/-- A recognised command is accepted: CMD and DSTATE (R180). -/
def beginCommand (c : Byte) (s : State) : State := { s with cmd := c, dstate := .executing }

/-- The start of the status bracket (R183). -/
def statusOn (s : State) : State := emit (.status .blinking) { s with status := .blinking }

/-- The event that ends the status bracket: only a command that set Blinking emits `Status(Off)`
(R181, R183). -/
def bracketEnd : Status → List Event
  | .blinking => [.status .off]
  | .off => []

/-- `End()` (R181). -/
def endCommand (s : State) : State :=
  emitAll (bracketEnd s.status) { s with status := .off, phase := .none, dstate := .idle }

/-- Taking the one exceptional outcome, ABORT_UNSUPPORTED_ROM_SIZE (R221): it records nothing, sends
nothing, saves no state and has no return (R227); the dispatcher calls `End()`. -/
def abortCommand (s : State) : State := endCommand s

/-- `Reset()` (R240): no event; the registers it does not name keep their values (log 7), and the sequencer
leaves whatever primitive it was in (R241, log 14). -/
def resetRegisters (s : State) : State :=
  { s with
    mode := .read
    ddir := .input
    dstate := .idle
    phase := .none
    status := .off
    rspValid := false
    settleCnt := 0
    micro := .none }

end Sys2Proof.Machine
end

