-- ==== Sys2Proof/Machine/Operands.lean ====
section
/-! DEFINITION. Operands: no command carries one (spec/30_encoding.md R71). The addresses are constants of
the command number (spec/20_memory.md R53); those of the micro-operations come from the iterator's registers
(spec/30_encoding.md R78). -/

namespace Sys2Proof.Machine

/-- The logo field (R53). -/
def logoFirst : Word16 := 0x0104#16
def logoLast : Word16 := 0x0133#16

/-- The title field (R53). -/
def titleFirst : Word16 := 0x0134#16
def titleLast : Word16 := 0x0143#16

/-- The GBC flag, also the last byte of the title (R53). -/
def gbcFlagAddr : Word16 := 0x0143#16

/-- The cartridge type (R53). -/
def cartTypeAddr : Word16 := 0x0147#16

/-- ROM_SIZE_ADDR (R9, R53). -/
def romSizeAddr : Word16 := 0x0148#16

/-- The checksum field (R53). -/
def checksumFirst : Word16 := 0x014E#16
def checksumLast : Word16 := 0x014F#16

/-- The base window (R9, R52). -/
def baseFirst : Word16 := 0x0000#16
def baseLast : Word16 := 0x3FFF#16

/-- The bank window (R9, R52). -/
def bankWinFirst : Word16 := 0x4000#16
def bankWinLast : Word16 := 0x7FFF#16

/-- PROBE_VALUE (R9, R185). -/
def probeValue : Byte := 0xA0#8

/-- `zext_17` (R11, R152). -/
def zext17 (a : Word16) : Cursor := a.setWidth 17

/-- `trunc_16` (R11, R152). -/
def trunc16 (c : Cursor) : Word16 := c.setWidth 16

/-- `trunc_8` of a bank index (R132): the value the 8 data lines carry. -/
def trunc8 (n : BankNo) : Byte := n.setWidth 8

/-- The address operand of the MemRead the iterator is in: 0x0148 in the RomSize phase (R154), else CUR
(R151, R152, R153). -/
def readOperand (s : State) : Word16 :=
  match s.phase with
  | .romSize => romSizeAddr
  | _ => trunc16 s.cur

/-- The value operand of the MemWrite of `selectBank(BANK)` (R131, R132). -/
def writeOperand (s : State) : Byte := trunc8 s.bank

end Sys2Proof.Machine
end

