-- ==== Sys2Proof/Machine/Flags.lean ====
section
/-! DEFINITION. The one-bit outputs and the other ports of the block, all functions of State
(spec/10_state.md R22, R36). The block has no condition flags (R20). -/

namespace Sys2Proof.Machine

/-- RD, logical: asserted exactly in Read mode (R22). -/
def State.rd (s : State) : Bool := s.mode == .read

/-- WR, logical: asserted exactly in Write mode (R22). -/
def State.wr (s : State) : Bool := s.mode == .write

/-- The level on the read-strobe pin (R22). -/
def State.pinRd (s : State) : Bool := s.rd ^^ s.params.strobeActiveLow

/-- The level on the write-strobe pin (R22). -/
def State.pinWr (s : State) : Bool := s.wr ^^ s.params.strobeActiveLow

/-- The high address port AH: address lines A15..A8 (R23, R36, R56). -/
def State.addrHigh (s : State) : Byte := s.addr.extractLsb' 8 8

/-- The low address port AL: address lines A7..A0 (R23, R36, R56). -/
def State.addrLow (s : State) : Byte := s.addr.extractLsb' 0 8

/-- D_oe (R36). -/
def State.dataEnable (s : State) : Bool := s.ddir == .output

/-- What the block drives onto D: DOUT while DDIR = Out, nothing while DDIR = In (R24, R25, R36). -/
def State.dataLines (s : State) : Option Byte :=
  match s.ddir with
  | .output => some s.dout
  | .input => none

/-- cmd_ready: 1 exactly when DSTATE = Idle and there is no reset (R36). -/
def State.cmdReady (s : State) : Bool := s.dstate == .idle && !s.env.pins.rst

/-- cmd_valid, with its byte: what the transport offers at this edge (R36, R232). -/
def Env.offered (e : Env) : Option Byte := if e.pins.offer then e.rx.head? else none

/-- rsp_valid (R36). -/
def State.rspValidOut (s : State) : Bool := s.rspValid

/-- rsp_byte (R36). -/
def State.rspByteOut (s : State) : Byte := s.rsp

/-- status: 1 = Blinking (R36, R233). -/
def State.statusOut (s : State) : Bool := s.status == .blinking

/-- The bytes the transport has accepted in a trace: the response byte stream (R13). -/
def responseBytes : List Event → List Byte
  | [] => []
  | .send v :: rest => v :: responseBytes rest
  | _ :: rest => responseBytes rest

end Sys2Proof.Machine
end

