-- ==== Sys2Proof/Machine/BusDriver.lean ====
section
/-! DEFINITION. The Bus Driver (spec/41_bus_driver.md R100 to R110): each micro-step drives one set of
lines, emits one event and moves the sequencer to the position `next`. A step changes nothing else (R37). -/

namespace Sys2Proof.Machine

/-- The first step of MemRead and MemWrite: the direction of the data lines (R103, R105). -/
def driveDir (d : Dir) (next : Micro) (s : State) : State :=
  emit (.dir d) { s with ddir := d, micro := next }

/-- `Settle()` begins: the counter is loaded at the edge that ends the step before it (R107, log 9). -/
def loadSettle (s : State) : State := { s with settleCnt := s.params.settleCycles }

/-- The address step: both ports at once (R23, R247), then the settle wait. -/
def driveAddr (a : Word16) (next : Micro) (s : State) : State :=
  loadSettle (emit (.addr a) { s with addr := a, micro := next })

/-- One clock edge of a settle wait (R107): the counter goes down by one, every line holds, and the edge
that takes it to zero emits `Settle`. -/
def settleEdge (next : Micro) (s : State) : State :=
  if s.settleCnt ≤ 1 then emit .settle { s with settleCnt := 0, micro := next }
  else wait { s with settleCnt := s.settleCnt - 1 }

/-- The byte the sample step of MemRead sees (R26, R103). -/
def sampledByte (s : State) : Byte := s.env.busByte s.addr

/-- The sample step of MemRead (R103): it ends the primitive. -/
def sampleBus (s : State) : State :=
  emit (.sample s.addr (sampledByte s))
    { s with env := { s.env with draws := s.env.draws + 1 }, micro := .none }

/-- The drive step of MemWrite (R105). -/
def driveData (v : Byte) (next : Micro) (s : State) : State :=
  emit (.drive v) { s with dout := v, micro := next }

/-- `SetMode(m)` (R101): MODE, and with it the two strobes (R22); what the cartridge does with the change
is its own business (`Cart.onMode`). -/
def setMode (m : Mode) (next : Micro) (s : State) : State :=
  emit (.mode m)
    { s with
      mode := m
      micro := next
      env := { s.env with cart := s.env.cart.onMode m s.addr s.ddir s.dout } }

/-- MemRead starts (R103), only in Read mode (R104; the fault is at its first step, log 11). -/
def beginRead (s : State) : Host.Outcome State Fault Refusal :=
  match s.mode with
  | .read => .next (driveDir .input .readAddr s)
  | .write => .fault .readInWriteMode

end Sys2Proof.Machine
end

