-- ==== Sys2Proof/Machine/BankSwitcher.lean ====
section
/-! DEFINITION. The Bank Switcher (spec/42_bank_switcher.md R130 to R135). -/

namespace Sys2Proof.Machine

/-- `bankCount(code)` (R130); `none` is the distinct outcome "unsupported". -/
def bankCount (code : Byte) : Option BankNo :=
  if code ≤ 0x07#8 then some (BitVec.ofNat 9 (2 ^ (code.toNat + 1)))
  else if code = 0x52#8 then some 72#9
  else if code = 0x53#8 then some 80#9
  else if code = 0x54#8 then some 96#9
  else none

/-- `selectBank(BANK)` starts, asserting Read mode (R131, log 12): the first step of its MemWrite. -/
def beginSelect (s : State) : Host.Outcome State Fault Refusal :=
  match s.mode with
  | .read => .next (driveDir .output .writeAddr s)
  | .write => .fault .selectInWriteMode

/-- The address step of its MemWrite, always to 0x2000 (R131, R134). -/
def selectAddr (s : State) : State := driveAddr bankSelectAddr .writeSettle s

/-- The drive step of its MemWrite: the bank index, truncated to the data lines (R132). -/
def selectData (s : State) : State := driveData (writeOperand s) .pulseWrite s

/-- `SetMode(Write)` and the settle wait after it (R131). -/
def selectPulse (s : State) : State := loadSettle (setMode .write .pulseSettle s)

/-- `SetMode(Read)` ends the sequence, and the bank window is read next (R131, R153 `Select`). -/
def selectEnd (s : State) : State :=
  { setMode .read .none s with
    cur := zext17 bankWinFirst
    endAddr := bankWinLast
    phase := .bankWin }

end Sys2Proof.Machine
end

