-- ==== Sys2Proof/Machine/RegionReader.lean ====
section
/-! DEFINITION. The Region Reader (spec/43_region_reader.md R150 to R158): the initialisation of the three
region shapes, and `Next()`, one step per turn of the rule's own loop (log 18). -/

namespace Sys2Proof.Machine

/-- Init Single(a) (R151). -/
def initSingle (a : Word16) (s : State) : State := { s with phase := .single, cur := zext17 a }

/-- Init Range(first, last) (R152). -/
def initRange (first last : Word16) (s : State) : State :=
  { s with phase := .range, cur := zext17 first, endAddr := last }

/-- Init Banked() (R153). -/
def initBanked (s : State) : State :=
  { s with phase := .base, cur := zext17 baseFirst, endAddr := baseLast }

/-- The current contiguous range has an address left (R152, R153 `CUR <= END`). -/
def rangeLeft (s : State) : Bool := s.cur ≤ zext17 s.endAddr

/-- `PHASE <- Done` with the outcome `Next()` then returns (R150). -/
def finish (e : IterEnd) (s : State) : State := { s with phase := .done, iterEnd := e }

/-- `Next()` between two bus primitives (R151, R152, R153): start the read of the next byte, or move to the
next phase, or, in Done, return the outcome, upon which the dispatcher ends the command (R180, R181, R221).
In phase None only the probe is executing, and its response has ended (R185). -/
def nextEdge (s : State) : Host.Outcome State Fault Refusal :=
  match s.phase with
  | .none => if s.cmd = 0x01#8 then .next (endCommand s) else .fault .noRegion
  | .single => beginRead s
  | .range => if rangeLeft s then beginRead s else .next (finish .ended s)
  | .base => if rangeLeft s then beginRead s else .next { s with phase := .romSize }
  | .romSize => beginRead s
  | .select => beginSelect s
  | .bankWin =>
    if rangeLeft s then beginRead s
    else if s.bank < s.nbanks then .next { s with bank := s.bank + 1#9, phase := .select }
    else .next (finish .ended s)
  | .done =>
    match s.iterEnd with
    | .ended => .next (endCommand s)
    | .aborted => .next (abortCommand s)

/-- The ROM-size code is resolved to a bank count, or the iterator ends with abort (R153 `RomSize`, R154,
R155). -/
def resolveBanks (code : Byte) (s : State) : State :=
  match bankCount code with
  | some n => { s with romcode := code, nbanks := n, bank := 1#9, phase := .select }
  | none => finish .aborted { s with romcode := code }

/-- A byte of a contiguous range is returned: CUR moves on and the byte is sent (R152, R153, R182). -/
def returnNext (v : Byte) (s : State) : State := offerByte v { s with cur := s.cur + 1#17 }

/-- The sample step of MemRead and what the iterator does with the value (R151 to R154). -/
def sampleEdge (s : State) : Host.Outcome State Fault Refusal :=
  match s.phase with
  | .single => .next (offerByte (sampledByte s) (finish .ended (sampleBus s)))
  | .range => .next (returnNext (sampledByte s) (sampleBus s))
  | .base => .next (returnNext (sampledByte s) (sampleBus s))
  | .bankWin => .next (returnNext (sampledByte s) (sampleBus s))
  | .romSize => .next (resolveBanks (sampledByte s) (sampleBus s))
  | .none => .fault .noRegion
  | .select => .fault .noRegion
  | .done => .fault .noRegion

end Sys2Proof.Machine
end

