-- ==== Sys2Proof/Machine/Dispatcher.lean ====
section
/-! DEFINITION. The Command Dispatcher (spec/44_command_dispatcher.md R180 to R184): which inputs an edge
looks at, taking a command byte, and the Execute step. -/

namespace Sys2Proof.Machine

/-- What the next clock edge is. The inputs are looked at here and nowhere else, but for the data lines
(R225). -/
inductive Edge where
  /-- rst = 1 (R240). -/
  | reset
  /-- Idle, and no command byte is offered (R236, R245). -/
  | poll
  /-- Idle, and the transport hands over this byte (R180). -/
  | take (c : Byte)
  /-- A response byte waits and rsp_ready = 0 (R182, R245). -/
  | waitRsp
  /-- A response byte waits and rsp_ready = 1 (R182). -/
  | sendRsp
  /-- Executing, with no response byte in the way (R249). -/
  | run
deriving DecidableEq, Repr

/-- Reset wins over everything (R226); cmd_valid is looked at only in Idle and rsp_ready only while
Executing (R226). -/
def edgeOf (s : State) : Edge :=
  if s.env.pins.rst then .reset
  else
    match s.dstate with
    | .idle =>
      match s.env.offered with
      | some c => .take c
      | none => .poll
    | .executing =>
      if s.rspValid then
        if s.env.pins.rspReady then .sendRsp else .waitRsp
      else .run

/-- The transport hands over the byte `c`, the first it holds (R180, R232). -/
def takeByte (c : Byte) (s : State) : State :=
  emit (.accept c) { s with env := { s.env with rx := s.env.rx.tail } }

/-- One clock edge with rst = 1 (R240, R241). -/
def resetEdge (s : State) : State := wait (resetRegisters s)

/-- One edge of the sequencer while Executing (R33): `Next()` between primitives, else the next micro-step
of the primitive in progress (R103, R105, R131). -/
def runEdge (s : State) : Host.Outcome State Fault Refusal :=
  match s.micro with
  | .none => nextEdge s
  | .readAddr => .next (driveAddr (readOperand s) .readSettle s)
  | .readSettle => .next (settleEdge .readSample s)
  | .readSample => sampleEdge s
  | .writeAddr => .next (selectAddr s)
  | .writeSettle => .next (settleEdge .writeDrive s)
  | .writeDrive => .next (selectData s)
  | .pulseWrite => .next (selectPulse s)
  | .pulseSettle => .next (settleEdge .pulseRead s)
  | .pulseRead => .next (selectEnd s)

end Sys2Proof.Machine
end

