-- ==== Sys2Proof/Machine/Commands.lean ====
section
/-! DEFINITION. The meanings of the nine rows of spec/opcode_table.json: `Start(c)` of R185 to R192, and the
ignore of R193. A meaning is what the edge that accepts the command does; the Execute steps it sets going
are `runEdge`'s (R180; log 1). -/

namespace Sys2Proof.Machine

/-- PROBE (R185): `Send(0xA0)` begins; no bus line changes. -/
def execProbe (s : State) : Host.Outcome State Fault Refusal :=
  .next (offerByte probeValue (beginCommand 0x01#8 s))

/-- RDTYPE (R186): Init Single(0x0147). -/
def execRdtype (s : State) : Host.Outcome State Fault Refusal :=
  .next (initSingle cartTypeAddr (beginCommand 0x02#8 s))

/-- RDROMSZ (R187): Init Single(0x0148). -/
def execRdromsz (s : State) : Host.Outcome State Fault Refusal :=
  .next (initSingle romSizeAddr (beginCommand 0x03#8 s))

/-- RDGBC (R188): Init Single(0x0143). -/
def execRdgbc (s : State) : Host.Outcome State Fault Refusal :=
  .next (initSingle gbcFlagAddr (beginCommand 0x04#8 s))

/-- RDTITLE (R189): Status(Blinking), Init Range(0x0134, 0x0143). -/
def execRdtitle (s : State) : Host.Outcome State Fault Refusal :=
  .next (initRange titleFirst titleLast (statusOn (beginCommand 0x05#8 s)))

/-- RDLOGO (R190): Status(Blinking), Init Range(0x0104, 0x0133). -/
def execRdlogo (s : State) : Host.Outcome State Fault Refusal :=
  .next (initRange logoFirst logoLast (statusOn (beginCommand 0x06#8 s)))

/-- DUMP (R191): Status(Blinking), Init Banked(). -/
def execDump (s : State) : Host.Outcome State Fault Refusal :=
  .next (initBanked (statusOn (beginCommand 0x07#8 s)))

/-- RDCKSUM (R192): Status(Blinking), Init Range(0x014E, 0x014F). -/
def execRdcksum (s : State) : Host.Outcome State Fault Refusal :=
  .next (initRange checksumFirst checksumLast (statusOn (beginCommand 0x08#8 s)))

/-- Every other byte (R193, R222): nothing is written, whatever the byte. -/
def execIgnored (_byte : Byte) (s : State) : Host.Outcome State Fault Refusal := .next s

end Sys2Proof.Machine
end

