-- ==== Sys2Proof/Machine/Dispatch.lean ====
section
/-! DEFINITION. One arm per constructor of Instr: the meaning of every row of spec/opcode_table.json. -/

namespace Sys2Proof.Machine

def exec (i : Instr) (s : State) : Host.Outcome State Fault Refusal :=
  match i with
  | .probe => Sys2Proof.Machine.execProbe s
  | .rdtype => Sys2Proof.Machine.execRdtype s
  | .rdromsz => Sys2Proof.Machine.execRdromsz s
  | .rdgbc => Sys2Proof.Machine.execRdgbc s
  | .rdtitle => Sys2Proof.Machine.execRdtitle s
  | .rdlogo => Sys2Proof.Machine.execRdlogo s
  | .dump => Sys2Proof.Machine.execDump s
  | .rdcksum => Sys2Proof.Machine.execRdcksum s
  | .ignored byte => Sys2Proof.Machine.execIgnored byte s

end Sys2Proof.Machine
end

