-- ==== Sys2Proof/Machine/Step.lean ====
section
/-! DEFINITION. One step of the machine: one edge of the sequencer (spec/10_state.md R33), and where the next
instruction is fetched: the command byte the transport offers in Idle (spec/44_command_dispatcher.md R180). -/

namespace Sys2Proof.Machine

/-- One step. The input levels are those of `s`; the state stepped is `s` with the environment moved on to
the levels of the next edge (log 2). -/
def step (s : State) : Host.Outcome State Fault Refusal :=
  match edgeOf s with
  | .reset => .next (resetEdge (advanceInputs s))
  | .poll => .next (wait (advanceInputs s))
  | .take c => exec (decodeByte c) (takeByte c (advanceInputs s))
  | .waitRsp => .next (wait (advanceInputs s))
  | .sendRsp => .next (byteTaken (advanceInputs s))
  | .run => runEdge (advanceInputs s)

/-- `s` with the command byte `w` first in the transport, offered, no reset, and the dispatcher in Idle, so
that the very next step takes and runs it (log 3). -/
def State.withFetchWord (s : State) (nbits w : Nat) : State :=
  { s with
    dstate := .idle
    env := { s.env with
      rx := tableByte nbits w :: s.env.rx
      pins := { s.env.pins with rst := false, offer := true } } }

end Sys2Proof.Machine
end

