-- ==== Sys2Proof/Safety.lean ====
section
/-! DEFINITION. The terms claims are stated in: runs, the legal states, the rules every trace obeys
(spec/41_bus_driver.md R108, spec/20_memory.md R51, spec/42_bank_switcher.md R134), and the event lists the
operations emit (spec/43_region_reader.md R153, R156). -/

namespace Sys2Proof.Machine

/-! ### Runs -/

/-- `k` steps, stopping at the first fault or refusal. -/
def runSteps : Nat → State → Host.Outcome State Fault Refusal
  | 0, s => .next s
  | k + 1, s =>
    match step s with
    | .next t => runSteps k t
    | .fault r => .fault r
    | .refused r => .refused r

/-- Some number of steps leads from `s` to `t`. -/
def Reaches (s t : State) : Prop := ∃ k, runSteps k s = .next t

/-- The environment keeps rst = 0, offers every byte it holds and takes every response byte at once
(a prompt transport, R232). -/
def State.attended (s : State) : Prop :=
  s.env.pins = { rst := false, offer := true, rspReady := true } ∧ s.env.upcoming = []

/-- The environment after `k` edges of its schedule (log 2). -/
def Env.advanceBy : Nat → Env → Env
  | 0, e => e
  | k + 1, e => Env.advanceBy k e.advance

/-! ### Legal states -/

/-- The commands in whose execution a phase occurs (R158, R185 to R192). -/
def phaseFits (c : Byte) : Phase → Bool
  | .none => c == 0x01#8
  | .single => c == 0x02#8 || c == 0x03#8 || c == 0x04#8
  | .range => c == 0x05#8 || c == 0x06#8 || c == 0x08#8
  | .base => c == 0x07#8
  | .romSize => c == 0x07#8
  | .select => c == 0x07#8
  | .bankWin => c == 0x07#8
  | .done => 0x02#8 ≤ c && c ≤ 0x08#8

/-- The address of the Single region of a command (R186 to R188). -/
def singleAddr (c : Byte) : Word16 :=
  if c = 0x02#8 then cartTypeAddr else if c = 0x03#8 then romSizeAddr else gbcFlagAddr

/-- The first address of the Range region of a command (R189, R190, R192). -/
def rangeFirst (c : Byte) : Word16 :=
  if c = 0x05#8 then titleFirst else if c = 0x06#8 then logoFirst else checksumFirst

/-- The last address of the Range region of a command (R189, R190, R192). -/
def rangeLast (c : Byte) : Word16 :=
  if c = 0x05#8 then titleLast else if c = 0x06#8 then logoLast else checksumLast

/-- CUR lies in the range or one past its end, and END is the range's last address (R152, R153). -/
def inRange (s : State) (first last : Word16) : Bool :=
  s.endAddr == last && zext17 first ≤ s.cur && s.cur ≤ zext17 last + 1#17

/-- NBANKS is the bank count of ROMCODE and BANK lies in 1 to NBANKS (R31, R153). -/
def banksResolved (s : State) : Bool :=
  bankCount s.romcode == some s.nbanks && 1#9 ≤ s.bank && s.bank ≤ s.nbanks

/-- What the iterator's registers hold in each phase (R31, R151 to R153). -/
def iteratorFits (s : State) : Bool :=
  match s.phase with
  | .none => true
  | .single => s.cur == zext17 (singleAddr s.cmd)
  | .range => inRange s (rangeFirst s.cmd) (rangeLast s.cmd)
  | .base => inRange s baseFirst baseLast
  | .romSize => true
  | .select => banksResolved s
  | .bankWin => inRange s bankWinFirst bankWinLast && banksResolved s
  | .done => true

/-- The iterator is at a read: in a phase that reads, with an address left (R151 to R154). -/
def atRead (s : State) : Bool :=
  match s.phase with
  | .single => true
  | .range => rangeLeft s
  | .base => rangeLeft s
  | .bankWin => rangeLeft s
  | .romSize => true
  | .none => false
  | .select => false
  | .done => false

/-- What the bus registers and the iterator hold at each position of a primitive (R103, R105, R131). -/
def positionFits (s : State) : Bool :=
  match s.micro with
  | .none => true
  | .readAddr => atRead s && s.ddir == .input
  | .readSettle => atRead s && s.ddir == .input && s.addr == readOperand s
  | .readSample => atRead s && s.ddir == .input && s.addr == readOperand s
  | .writeAddr => s.phase == .select && s.ddir == .output
  | .writeSettle => s.phase == .select && s.ddir == .output && s.addr == bankSelectAddr
  | .writeDrive => s.phase == .select && s.ddir == .output && s.addr == bankSelectAddr
  | .pulseWrite =>
    s.phase == .select && s.ddir == .output && s.addr == bankSelectAddr && s.dout == writeOperand s
  | .pulseSettle =>
    s.phase == .select && s.ddir == .output && s.addr == bankSelectAddr && s.dout == writeOperand s
  | .pulseRead =>
    s.phase == .select && s.ddir == .output && s.addr == bankSelectAddr && s.dout == writeOperand s

/-- The position is inside a settle wait (R107). -/
def settling : Micro → Bool
  | .readSettle => true
  | .writeSettle => true
  | .pulseSettle => true
  | .none => false
  | .readAddr => false
  | .readSample => false
  | .writeAddr => false
  | .writeDrive => false
  | .pulseWrite => false
  | .pulseRead => false

/-- The position is inside the Write pulse of selectBank (R131, R133). -/
def inPulse : Micro → Bool
  | .pulseSettle => true
  | .pulseRead => true
  | .none => false
  | .readAddr => false
  | .readSettle => false
  | .readSample => false
  | .writeAddr => false
  | .writeSettle => false
  | .writeDrive => false
  | .pulseWrite => false

/-- The states the rules of spec/41 to 44 and spec/70 lead through. -/
structure State.Legal (s : State) : Prop where
  /-- R9. -/
  paramsOk : s.params.admissible
  /-- The known cartridge contents stay in their canonical form. -/
  cellsOk : Memory.wf s.env.cart.cells = true
  /-- Write mode is used only inside the pulse of the bank-select sequence (R21, R133). -/
  modeOk : s.mode = .write ↔ inPulse s.micro = true
  /-- Outside a command PHASE is None, STATUS is Off and nothing is in progress (R158, R183, R245). -/
  idleOk : s.dstate = .idle →
    s.phase = .none ∧ s.micro = .none ∧ s.rspValid = false ∧ s.status = .off
  /-- While a command executes, CMD holds it and PHASE is one of its phases (R29, R158). -/
  cmdOk : s.dstate = .executing → isCommandByte s.cmd = true ∧ phaseFits s.cmd s.phase = true
  /-- STATUS is Blinking exactly in commands 0x05 to 0x08 (R183). -/
  statusOk : s.dstate = .executing → (s.status = .blinking ↔ 0x05#8 ≤ s.cmd)
  /-- The iterator's registers (R31). -/
  iteratorOk : iteratorFits s = true
  /-- The bus registers at each position of a primitive (R103, R105, R131). -/
  positionOk : positionFits s = true
  /-- No primitive is in progress while a response byte waits (R32, R249), and none waits in a phase that
  has not read one (R154). -/
  responseOk : s.rspValid = true →
    s.micro = .none ∧ s.phase ≠ .single ∧ s.phase ≠ .romSize ∧ s.phase ≠ .select
  /-- SETTLE_CNT counts only inside a settle wait (R27, R107). -/
  settleOk : s.settleCnt ≤ s.params.settleCycles ∧ (settling s.micro = false → s.settleCnt = 0)
  /-- The bank window shows the bank last selected (R52), from the Write pulse on; model's choice of the
  moment, log 5. -/
  bankOk : s.phase = .bankWin ∨ inPulse s.micro = true → s.env.cart.bankReg = trunc8 s.bank

/-- The states R38 and R240 allow right after the power-up reset: the named registers at their values, no
primitive in progress (log 14) and an empty trace, with any value of the nine registers they leave
unspecified, any admissible parameters, and before any environment. -/
structure State.AfterReset (s : State) : Prop where
  paramsOk : s.params.admissible
  cellsOk : Memory.wf s.env.cart.cells = true
  mode : s.mode = .read
  ddir : s.ddir = .input
  dstate : s.dstate = .idle
  status : s.status = .off
  phase : s.phase = .none
  rspValid : s.rspValid = false
  settleCnt : s.settleCnt = 0
  micro : s.micro = .none
  trace : s.trace = []

/-! ### The rules every trace obeys -/

/-- There is a Settle event after the last event of `t` that satisfies `p`. -/
def SettledSince (p : Event → Prop) (t : List Event) : Prop :=
  ∃ before after, t = before ++ .settle :: after ∧ ∀ e ∈ after, ¬ p e

/-- The event is an `Addr`. -/
def Event.isAddr : Event → Prop
  | .addr _ => True
  | _ => False

/-- The settle rule (R108): (a) every Sample and (b) every Drive is preceded by a Settle that comes after
the last Addr before it; (c) between a Mode(Write) and a Mode(Read) that follows it there is a Settle. -/
structure SettleRule (t : List Event) : Prop where
  samples : ∀ before a v after, t = before ++ .sample a v :: after → SettledSince Event.isAddr before
  drives : ∀ before v after, t = before ++ .drive v :: after → SettledSince Event.isAddr before
  pulses : ∀ before between after,
    t = before ++ .mode .write :: (between ++ .mode .read :: after) → Event.settle ∈ between

/-- What a checker of the settle rule remembers of a trace (R108). -/
structure SettleScan where
  /-- A Settle has come since the last Addr. -/
  settled : Bool
  /-- A Mode(Write) has come and no Settle since. -/
  pulseOpen : Bool
deriving DecidableEq, Repr

/-- One event of the checker: the new memory, or `none` where the rule is broken. -/
def SettleScan.next (m : SettleScan) : Event → Option SettleScan
  | .addr _ => some { m with settled := false }
  | .settle => some { settled := true, pulseOpen := false }
  | .sample _ _ => if m.settled then some m else none
  | .drive _ => if m.settled then some m else none
  | .mode .write => some { m with pulseOpen := true }
  | .mode .read => if m.pulseOpen then none else some m
  | .accept _ => some m
  | .dir _ => some m
  | .send _ => some m
  | .status _ => some m

/-- The checker over the rest of a trace. -/
def SettleScan.accepts (m : SettleScan) : List Event → Bool
  | [] => true
  | e :: rest =>
    match m.next e with
    | some n => n.accepts rest
    | none => false

/-- The checker of the settle rule on a whole trace (95_test_vectors.md §2.4). -/
def settleChecked (t : List Event) : Bool :=
  SettleScan.accepts { settled := false, pulseOpen := false } t

/-- The legal states whose trace obeys the settle rule, with what the trace has shown at the three
positions a settle wait leads to. -/
structure State.SettleSafe (s : State) : Prop where
  legal : s.Legal
  rule : SettleRule s.trace
  sampleReady : s.micro = .readSample → SettledSince Event.isAddr s.trace
  driveReady : s.micro = .writeDrive → SettledSince Event.isAddr s.trace
  pulseReady : s.micro = .pulseRead → SettledSince (· = .mode .write) s.trace

/-- The address last driven in a trace. -/
def lastAddr : List Event → Option Word16
  | [] => none
  | e :: rest =>
    match lastAddr rest, e with
    | some a, _ => some a
    | none, .addr a => some a
    | none, _ => none

/-- Which addresses the bus sees: none above 0x7FFF (R51); a sample is of the address last driven (R14); a
data value is driven only at 0x2000 (R134). -/
structure AddressRule (t : List Event) : Prop where
  driven : ∀ a, Event.addr a ∈ t → a ≤ 0x7FFF#16
  samples : ∀ before a v after, t = before ++ .sample a v :: after → lastAddr before = some a
  drives : ∀ before v after, t = before ++ .drive v :: after → lastAddr before = some bankSelectAddr

/-- The position is after the address step of a primitive and before its last step. -/
def addressed : Micro → Bool
  | .readSettle => true
  | .readSample => true
  | .writeSettle => true
  | .writeDrive => true
  | .none => false
  | .readAddr => false
  | .writeAddr => false
  | .pulseWrite => false
  | .pulseSettle => false
  | .pulseRead => false

/-- The legal states whose trace obeys the address rule, with ADDR as the trace has shown it. -/
structure State.AddressSafe (s : State) : Prop where
  legal : s.Legal
  rule : AddressRule s.trace
  current : addressed s.micro = true → lastAddr s.trace = some s.addr

/-- Where a sent byte comes from (R63, R182, R185): the event just before its Send is the Sample that saw
that byte, or the Accept of a PROBE, whose byte is 0xA0. -/
def sentFrom (before : List Event) (v : Byte) : Prop :=
  (∃ init a, before = init ++ [.sample a v]) ∨
    (v = probeValue ∧ ∃ init, before = init ++ [.accept 0x01#8])

/-- Every byte sent is the value of the sample just before it, or the probe value (R63). -/
def ResponseRule (t : List Event) : Prop :=
  ∀ before v after, t = before ++ .send v :: after → sentFrom before v

/-- The legal states whose trace obeys the response rule, with the byte that waits as the trace has shown
it. -/
structure State.ResponseSafe (s : State) : Prop where
  legal : s.Legal
  rule : ResponseRule s.trace
  waiting : s.rspValid = true → sentFrom s.trace s.rsp

/-! ### Phases -/

/-- The phase transitions inside a command (R158), each phase also staying as it is; Done leaves only to
None, at `End()` (R181). -/
def phaseStep : Phase → Phase → Bool
  | .none, q => q == .none
  | .single, q => q == .single || q == .done
  | .range, q => q == .range || q == .done
  | .base, q => q == .base || q == .romSize
  | .romSize, q => q == .romSize || q == .done || q == .select
  | .select, q => q == .select || q == .bankWin
  | .bankWin, q => q == .bankWin || q == .select || q == .done
  | .done, q => q == .done || q == .none

/-! ### The events of the operations -/

/-- The byte a sample of address `a` sees when the bank register holds `b` and `n` samples have gone
before (R26). -/
def byteAt (cells : Memory) (b : Byte) (n : Nat) (a : Word16) : Byte :=
  match Memory.read cells (location b a) with
  | some v => v
  | none => Config.busDraw n

/-- MemRead (R103). -/
def readEvents (a : Word16) (v : Byte) : List Event :=
  [.dir .input, .addr a, .settle, .sample a v]

/-- MemRead and the Send of its byte (R182). -/
def sentEvents (a : Word16) (v : Byte) : List Event := readEvents a v ++ [.send v]

/-- The bytes of a range of `n` addresses from `first`, the samples counted from `d` (R152, R26). -/
def rangeBytes (cells : Memory) (b : Byte) (d : Nat) (first : Word16) (n : Nat) : List Byte :=
  (List.range n).map fun i => byteAt cells b (d + i) (first + BitVec.ofNat 16 i)

/-- The events of a range of `n` addresses from `first` (R152, R182). -/
def rangeEvents (cells : Memory) (b : Byte) (d : Nat) (first : Word16) (n : Nat) : List Event :=
  (List.range n).flatMap fun i =>
    sentEvents (first + BitVec.ofNat 16 i) (byteAt cells b (d + i) (first + BitVec.ofNat 16 i))

/-- selectBank(n) (R131). -/
def selectEvents (n : BankNo) : List Event :=
  [.dir .output, .addr bankSelectAddr, .settle, .drive (trunc8 n), .mode .write, .settle, .mode .read]

/-- The index of the `j`-th bank, counted from 0: banks go from 1 to NBANKS (R153). -/
def bankIndex (j : Nat) : BankNo := BitVec.ofNat 9 (j + 1)

/-- How many samples DUMP has taken before the window of the `j`-th bank (R157). -/
def windowDraws (d j : Nat) : Nat := d + 0x4001 + j * 0x4000

/-- The bytes of the first `n` bank windows of a DUMP that began when `d` samples had been taken (R156). -/
def windowBytes (cells : Memory) (d n : Nat) : List Byte :=
  (List.range n).flatMap fun j =>
    rangeBytes cells (trunc8 (bankIndex j)) (windowDraws d j) bankWinFirst 0x4000

/-- The events of the first `n` bank windows of a DUMP, each after its bank selection (R153). -/
def windowEvents (cells : Memory) (d n : Nat) : List Event :=
  (List.range n).flatMap fun j =>
    selectEvents (bankIndex j) ++
      rangeEvents cells (trunc8 (bankIndex j)) (windowDraws d j) bankWinFirst 0x4000

/-- The events of the reads of consecutive addresses from `a` that sample these bytes, each sent (R152,
R182). -/
def readsOf : Word16 → List Byte → List Event
  | _, [] => []
  | a, v :: rest => sentEvents a v ++ readsOf (a + 1#16) rest

/-- The events of bank windows that sample these bytes, from the `j`-th bank on, each after its bank
selection (R153). -/
def windowsOf : Nat → List (List Byte) → List Event
  | _, [] => []
  | j, w :: rest => selectEvents (bankIndex j) ++ readsOf bankWinFirst w ++ windowsOf (j + 1) rest

/-- The ROM-size code a DUMP reads: its sample number 0x4000, of 0x0148 (R154, R63). -/
def dumpCode (cells : Memory) (b : Byte) (d : Nat) : Byte := byteAt cells b (d + 0x4000) romSizeAddr

/-- The events of a DUMP up to the ROM-size read (R153, R154, R191). -/
def dumpHead (cells : Memory) (b : Byte) (d : Nat) : List Event :=
  [.accept 0x07#8, .status .blinking] ++ rangeEvents cells b d baseFirst 0x4000 ++
    readEvents romSizeAddr (dumpCode cells b d)

/-- The kinds of event that the bus work of a command is counted by (R157). -/
def Event.isSample : Event → Bool
  | .sample _ _ => true
  | _ => false

def Event.isDrive : Event → Bool
  | .drive _ => true
  | _ => false

def Event.isMode : Event → Bool
  | .mode _ => true
  | _ => false

def Event.isSettle : Event → Bool
  | .settle => true
  | _ => false

/-- The state holds the block at rest between two commands, and `c` is the next command byte. -/
structure State.Ready (s : State) (c : Byte) : Prop where
  legal : s.Legal
  idle : s.dstate = .idle
  attended : s.attended
  next : s.env.rx.head? = some c

/-- What every finished command leaves behind (R181, R194): Idle, Read mode, Status Off, no phase, the
command byte taken, the cartridge's contents and the parameters untouched. -/
structure Finished (s t : State) : Prop where
  legal : t.Legal
  idle : t.dstate = .idle
  modeRead : t.mode = .read
  statusOff : t.status = .off
  attended : t.attended
  rx : t.env.rx = s.env.rx.tail
  cells : t.env.cart.cells = s.env.cart.cells
  params : t.params = s.params

/-! ### Views of a state -/

/-- An event without the data it carries. -/
def Event.eraseData : Event → Event
  | .sample a _ => .sample a 0#8
  | .send _ => .send 0#8
  | .accept c => .accept c
  | .dir d => .dir d
  | .addr a => .addr a
  | .settle => .settle
  | .drive v => .drive v
  | .mode m => .mode m
  | .status x => .status x

/-- A state without the cartridge's contents and the data read from it: what is left is all that decides
the order of events (R223). -/
def State.eraseData (s : State) : State :=
  { s with
    rsp := 0#8
    trace := s.trace.map Event.eraseData
    env := { s.env with cart := { cells := [], bankReg := 0#8 }, draws := 0 } }

/-- An outcome without the data read from the cartridge. -/
def eraseOutcome : Host.Outcome State Fault Refusal → Host.Outcome State Fault Refusal
  | .next s => .next s.eraseData
  | .fault r => .fault r
  | .refused r => .refused r

end Sys2Proof.Machine
end

