-- ==== Sys2Proof/Certificates/Slice0/Obligations.lean ====
section
/-! DEFINITION. The statements for the provers, from the numbered rules of spec/. -/

open Sys2Proof Sys2Proof.Machine

/-! ### Encoding -/

/-- Decoding the code of a well-formed instruction gives it back, whatever bytes follow (R70, R72, R73). -/
def Obligations.DecodeInvertsEncode : Prop :=
  ∀ (i : Instr) (rest : List Byte), i.wellFormed = true → decode (encode i ++ rest) = .ok (i, rest)

/-- Every byte is the code of exactly one well-formed instruction, the one it decodes to (R72, R73). -/
def Obligations.EveryByteIsOneInstruction : Prop :=
  ∀ c : Byte, (decodeByte c).wellFormed = true ∧ encodeByte (decodeByte c) = c ∧
    ∀ i : Instr, i.wellFormed = true → encodeByte i = c → i = decodeByte c

/-- The words of the command map, and two bytes outside it, decode to the instruction they stand for (R72);
the bytes are those of the map, written in binary. -/
def Obligations.CommandMapWordsDecode : Prop :=
  decodeTableWord 8 0b00000001 = some .probe ∧ decodeTableWord 8 0b00000010 = some .rdtype ∧
    decodeTableWord 8 0b00000011 = some .rdromsz ∧ decodeTableWord 8 0b00000100 = some .rdgbc ∧
    decodeTableWord 8 0b00000101 = some .rdtitle ∧ decodeTableWord 8 0b00000110 = some .rdlogo ∧
    decodeTableWord 8 0b00000111 = some .dump ∧ decodeTableWord 8 0b00001000 = some .rdcksum ∧
    decodeTableWord 8 0b00000000 = some (.ignored 0x00#8) ∧
    decodeTableWord 8 0b00001001 = some (.ignored 0x09#8)

/-! ### Reset -/

/-- The values R38 gives for the state after reset; nothing is said of the nine registers it leaves
unspecified. -/
def Obligations.ResetValues : Prop :=
  State.reset.mode = .read ∧ State.reset.rd = true ∧ State.reset.wr = false ∧
    State.reset.ddir = .input ∧ State.reset.dstate = .idle ∧ State.reset.status = .off ∧
    State.reset.phase = .none ∧ State.reset.rspValid = false ∧ State.reset.settleCnt = 0

/-- The state after reset is one of the states R38 allows, and every one of those, whatever the nine
unspecified registers, the parameters, the transport, the input schedule and the cartridge, is legal and has
an empty trace that obeys every trace rule. That SETTLE_CYCLES is admissible at `State.reset` holds for every
value of the free parameters (log 8). -/
def Obligations.ResetIsSafe : Prop :=
  State.reset.AfterReset ∧
    ∀ s : State, s.AfterReset → s.Legal ∧ s.SettleSafe ∧ s.AddressSafe ∧ s.ResponseSafe

/-- A clock edge with rst = 1 applies Reset() whatever else is pending (R240, R226 (a)): the seven registers
take their values, the others and the trace keep theirs, rsp_valid is 0, and cmd_ready is 1 exactly when rst
has gone to 0. No trace event is emitted, and the trace of the state after reset is empty. -/
def Obligations.ResetEdgeApplies : Prop :=
  State.reset.trace = [] ∧
  ∀ s : State, s.env.pins.rst = true →
    s.cmdReady = false ∧
    ∃ t, step s = .next t ∧
      t.mode = .read ∧ t.rd = true ∧ t.wr = false ∧ t.ddir = .input ∧ t.dataLines = none ∧
      t.dstate = .idle ∧ t.phase = .none ∧ t.status = .off ∧ t.rspValid = false ∧
      t.rspValidOut = false ∧ t.settleCnt = 0 ∧ t.cmdReady = !t.env.pins.rst ∧
      t.addr = s.addr ∧ t.dout = s.dout ∧ t.cmd = s.cmd ∧ t.rsp = s.rsp ∧ t.cur = s.cur ∧
      t.endAddr = s.endAddr ∧ t.bank = s.bank ∧ t.nbanks = s.nbanks ∧ t.romcode = s.romcode ∧
      t.trace = s.trace ∧ t.env.rx = s.env.rx

/-- Reset during a command (R241): the command stops at once, at whatever position of a primitive or of a
settle wait, with the registers as R240 leaves them; the bytes already accepted stay sent, a byte waiting in
RSP is dropped, and the step that follows, with rst = 0 and a byte on offer, takes a new command. -/
def Obligations.ResetStopsCommand : Prop :=
  ∀ s : State, s.env.pins.rst = true → s.dstate = .executing →
    ∃ t, step s = .next t ∧ t.dstate = .idle ∧ t.micro = .none ∧ t.settleCnt = 0 ∧ t.mode = .read ∧
      t.ddir = .input ∧ t.phase = .none ∧ t.status = .off ∧ t.rspValid = false ∧ t.addr = s.addr ∧
      t.dout = s.dout ∧ t.cmd = s.cmd ∧ t.rsp = s.rsp ∧ t.cur = s.cur ∧ t.endAddr = s.endAddr ∧
      t.bank = s.bank ∧ t.nbanks = s.nbanks ∧ t.romcode = s.romcode ∧
      responseBytes t.trace = responseBytes s.trace ∧
      ∀ c, t.env.pins.rst = false → t.env.offered = some c →
        step t = exec (decodeByte c) (takeByte c (advanceInputs t))

/-! ### Dispatch and the start of each command -/

/-- A step runs the decoded instruction: where the transport offers bytes that decode to `i`, the step is
`exec` of `i` on the state in which that byte has been taken, its Accept event emitted and the inputs moved
on. -/
def Obligations.StepRunsDecodedInstruction : Prop :=
  ∀ (s : State) (i : Instr) (rest : List Byte),
    s.dstate = .idle → s.env.pins.rst = false → s.env.pins.offer = true →
    decode s.env.rx = .ok (i, rest) →
    i.wellFormed = true ∧
    step s = exec i
      { advanceInputs s with
        env := { s.env.advance with rx := rest }
        trace := s.trace ++ [.accept (encodeByte i)]
        clocks := s.clocks + 1 }

/-- Accepting a command (R180): in Idle, with cmd_valid, the byte is taken; a recognised one is written to
CMD and starts executing, any other leaves Idle. -/
def Obligations.AcceptStartsRecognised : Prop :=
  ∀ (s : State) (c : Byte), s.dstate = .idle → s.env.pins.rst = false → s.env.offered = some c →
    s.cmdReady = true ∧
    ∃ t es, step s = .next t ∧ t.trace = s.trace ++ .accept c :: es ∧ t.env.rx = s.env.rx.tail ∧
      (isCommandByte c = true → t.cmd = c ∧ t.dstate = .executing) ∧
      (isCommandByte c = false → t.dstate = .idle ∧ es = [])

/-- PROBE starts its Send (R185): RSP holds 0xA0, whatever came before; no bus line, no iterator register
and no memory changes. -/
def Obligations.ProbeStarts : Prop :=
  ∀ s : State, exec .probe s =
    .next { s with cmd := 0x01#8, dstate := .executing, rsp := 0xA0#8, rspValid := true }

/-- RDTYPE, RDROMSZ and RDGBC start Single at 0x0147, 0x0148 and 0x0143 (R186, R187, R188, R151); nothing
else changes. -/
def Obligations.SingleReadsStart : Prop :=
  ∀ s : State,
    exec .rdtype s =
      .next { s with cmd := 0x02#8, dstate := .executing, phase := .single, cur := 0x0147#17 } ∧
    exec .rdromsz s =
      .next { s with cmd := 0x03#8, dstate := .executing, phase := .single, cur := 0x0148#17 } ∧
    exec .rdgbc s =
      .next { s with cmd := 0x04#8, dstate := .executing, phase := .single, cur := 0x0143#17 }

/-- RDTITLE, RDLOGO and RDCKSUM set STATUS to Blinking, emit it, and start Range over their field (R189,
R190, R192, R152); nothing else changes. -/
def Obligations.RangeReadsStart : Prop :=
  ∀ s : State,
    exec .rdtitle s =
      .next { s with
        cmd := 0x05#8, dstate := .executing, status := .blinking, phase := .range
        cur := 0x0134#17, endAddr := 0x0143#16
        trace := s.trace ++ [.status .blinking], clocks := s.clocks + 1 } ∧
    exec .rdlogo s =
      .next { s with
        cmd := 0x06#8, dstate := .executing, status := .blinking, phase := .range
        cur := 0x0104#17, endAddr := 0x0133#16
        trace := s.trace ++ [.status .blinking], clocks := s.clocks + 1 } ∧
    exec .rdcksum s =
      .next { s with
        cmd := 0x08#8, dstate := .executing, status := .blinking, phase := .range
        cur := 0x014E#17, endAddr := 0x014F#16
        trace := s.trace ++ [.status .blinking], clocks := s.clocks + 1 }

/-- DUMP sets STATUS to Blinking, emits it, and starts Banked (R191, R153); nothing else changes. -/
def Obligations.DumpStarts : Prop :=
  ∀ s : State,
    exec .dump s =
      .next { s with
        cmd := 0x07#8, dstate := .executing, status := .blinking, phase := .base
        cur := 0x0000#17, endAddr := 0x3FFF#16
        trace := s.trace ++ [.status .blinking], clocks := s.clocks + 1 }

/-- Every other byte is consumed and discarded (R193): the instruction writes nothing, and the step that
takes it changes the transport's queue and the trace only. -/
def Obligations.IgnoredByteDoesNothing : Prop :=
  (∀ (b : Byte) (s : State), exec (.ignored b) s = .next s) ∧
  ∀ (s : State) (c : Byte), s.dstate = .idle → s.env.pins.rst = false →
    s.env.offered = some c → isCommandByte c = false →
    step s = .next
      { advanceInputs s with
        env := { s.env.advance with rx := s.env.rx.tail }
        trace := s.trace ++ [.accept c]
        clocks := s.clocks + 1 }

/-- The frame of the start of every instruction, the edge that accepts it (R37's row "command accept"; the
Execute steps are later steps, log 1, and their frame is ExecuteStepFrame): it touches no bus register, no bank register, no settle count,
no parameter and nothing of the environment, so every byte of the cartridge reads as before; STATUS and the
trace change only for the four commands with a status bracket, and CMD and DSTATE only for the eight
commands (R37). -/
def Obligations.InstructionStartFrame : Prop :=
  ∀ (i : Instr) (s t : State), exec i s = .next t →
    t.params = s.params ∧ t.mode = s.mode ∧ t.addr = s.addr ∧ t.ddir = s.ddir ∧ t.dout = s.dout ∧
    t.settleCnt = s.settleCnt ∧ t.bank = s.bank ∧ t.nbanks = s.nbanks ∧ t.romcode = s.romcode ∧
    t.iterEnd = s.iterEnd ∧ t.micro = s.micro ∧ t.env = s.env ∧
    (i ≠ .probe → t.rsp = s.rsp ∧ t.rspValid = s.rspValid) ∧
    (i ≠ .rdtitle → i ≠ .rdlogo → i ≠ .rdcksum → i ≠ .dump →
      t.status = s.status ∧ t.endAddr = s.endAddr ∧ t.trace = s.trace) ∧
    ((i = .probe ∨ ∃ b, i = .ignored b) → t.phase = s.phase ∧ t.cur = s.cur) ∧
    ((∃ b, i = .ignored b) → t.cmd = s.cmd ∧ t.dstate = s.dstate) ∧
    ∀ (b : Byte) (a : Word16),
      Memory.read t.env.cart.cells (location b a) = Memory.read s.env.cart.cells (location b a)

/-! ### The bus primitives -/

/-- The strobes are functions of MODE (R22): exactly one is asserted, and the pins carry it xor
STROBE_ACTIVE_LOW. -/
def Obligations.StrobesFollowMode : Prop :=
  ∀ s : State,
    (s.rd = true ↔ s.mode = .read) ∧ (s.wr = true ↔ s.mode = .write) ∧ s.wr = !s.rd ∧
    s.pinRd = (s.rd ^^ s.params.strobeActiveLow) ∧ s.pinWr = (s.wr ^^ s.params.strobeActiveLow)

/-- The output ports follow the registers (R36): the address ports carry the two bytes of ADDR (R23, R56); D
carries DOUT exactly while DDIR = Out (R24); rsp_valid and rsp_byte are RSP_VALID and RSP; status is 1
exactly when STATUS is Blinking; cmd_ready is 1 exactly in Idle with no reset. -/
def Obligations.PortsFollowRegisters : Prop :=
  ∀ s : State,
    s.addrHigh ++ s.addrLow = s.addr ∧
    (s.ddir = .output → s.dataEnable = true ∧ s.dataLines = some s.dout) ∧
    (s.ddir = .input → s.dataEnable = false ∧ s.dataLines = none) ∧
    s.rspValidOut = s.rspValid ∧ s.rspByteOut = s.rsp ∧
    (s.statusOut = true ↔ s.status = .blinking) ∧
    (s.cmdReady = true ↔ s.dstate = .idle ∧ s.env.pins.rst = false)

/-- SetMode(m) (R101): MODE, its event, and no other line or register of the block. R101 says nothing of the
cartridge: that of the environment only the cartridge's bank register may change is the model's choice,
log 5. -/
def Obligations.SetModeSetsModeOnly : Prop :=
  ∀ (m : Mode) (next : Micro) (s : State),
    ∃ e, setMode m next s =
        { s with mode := m, micro := next, env := e, trace := s.trace ++ [.mode m]
                 clocks := s.clocks + 1 } ∧
      e.cart.cells = s.env.cart.cells ∧ e.pins = s.env.pins ∧ e.upcoming = s.env.upcoming ∧
      e.rx = s.env.rx ∧ e.draws = s.env.draws

/-- Settle() (R107): from a settle wait with SETTLE_CNT = c, every edge but the last only counts down, and
the last emits Settle; every register but the counter and the position holds. R107 bounds the wait from
below: that it takes exactly c edges, the last with the event, is log 9's, and the clock count log 10's. -/
def Obligations.SettleWaitCountsDown : Prop :=
  ∀ (s : State) (c : Nat), s.attended → s.dstate = .executing → s.rspValid = false →
    settling s.micro = true → s.settleCnt = c → 1 ≤ c →
    (∀ k < c, runSteps k s = .next { s with settleCnt := c - k, clocks := s.clocks + k }) ∧
    ∃ m, settling m = false ∧
      runSteps c s =
        .next { s with settleCnt := 0, micro := m, trace := s.trace ++ [.settle]
                       clocks := s.clocks + c }

/-- MemRead (R103), from the call of Next() that starts it to its sample: the four events in order, the
settle wait never skipped, DDIR = In and ADDR = the address, MODE and DOUT unchanged, and the value is the
byte the environment shows there: it waits to be sent (R182), or, in the RomSize phase, is kept (R154). The
exact count of edges is log 9's, the clocks log 10's and R250's, and the cartridge of which a sample uses only
the next draw log 4's. -/
def Obligations.MemReadRuns : Prop :=
  ∀ s : State, s.attended → s.dstate = .executing → s.rspValid = false → s.micro = .none →
    s.mode = .read → atRead s = true → 1 ≤ s.params.settleCycles →
    ∃ t, runSteps (s.params.settleCycles + 3) s = .next t ∧
      t.trace = s.trace ++ readEvents (readOperand s) (s.env.busByte (readOperand s)) ∧
      t.ddir = .input ∧ t.addr = readOperand s ∧ t.mode = .read ∧ t.dout = s.dout ∧
      t.settleCnt = 0 ∧ t.micro = .none ∧ t.dstate = .executing ∧ t.cmd = s.cmd ∧
      t.status = s.status ∧ t.params = s.params ∧
      t.env = { s.env with draws := s.env.draws + 1 } ∧
      t.clocks = s.clocks + s.params.settleCycles + 3 ∧
      (s.phase ≠ .romSize →
        t.rspValid = true ∧ t.rsp = s.env.busByte (readOperand s) ∧ t.romcode = s.romcode) ∧
      (s.phase = .romSize →
        t.rspValid = false ∧ t.rsp = s.rsp ∧ t.romcode = s.env.busByte (readOperand s))

/-- MemRead only in Read mode (R104): in every legal state at or inside a MemRead, MODE is Read; a model
that reaches a MemRead with MODE = Write faults there. -/
def Obligations.ReadInWriteModeFaults : Prop :=
  (∀ s : State, s.Legal → atRead s = true → s.mode = .read) ∧
  ∀ s : State, s.env.pins.rst = false → s.dstate = .executing → s.rspValid = false →
    s.micro = .none → atRead s = true → s.mode = .write → step s = .fault .readInWriteMode

/-- MemWrite (R105) inside selectBank: its four events in order, with the address 0x2000 and the truncated
bank index, and MODE unchanged (R106): the Write pulse comes after it, and is the caller's. The exact count of
edges is log 9's, the clocks log 10's and R250's, and the untouched cartridge log 5's. -/
def Obligations.MemWriteKeepsMode : Prop :=
  ∀ s : State, s.attended → s.dstate = .executing → s.rspValid = false → s.micro = .none →
    s.mode = .read → s.phase = .select → 1 ≤ s.params.settleCycles →
    runSteps (s.params.settleCycles + 3) s =
      .next { s with
        ddir := .output, addr := 0x2000#16, dout := trunc8 s.bank, settleCnt := 0
        micro := .pulseWrite
        trace := s.trace ++ [.dir .output, .addr 0x2000#16, .settle, .drive (trunc8 s.bank)]
        clocks := s.clocks + s.params.settleCycles + 3 }

/-- selectBank(n) (R131, R133): the seven events in order; at the end MODE = Read, DDIR = Out, ADDR = 0x2000
and DOUT = trunc_8(n). The iterator is then at the first address of the bank window (R153), by the same edge
(log 18), and every byte of the cartridge's contents is as before (log 5). The exact count of edges is log
9's, the clocks log 10's and R250's. -/
def Obligations.SelectBankRuns : Prop :=
  ∀ s : State, s.attended → s.dstate = .executing → s.rspValid = false → s.micro = .none →
    s.mode = .read → s.phase = .select → 1 ≤ s.params.settleCycles →
    ∃ e, runSteps (2 * s.params.settleCycles + 5) s =
        .next { s with
          mode := .read, ddir := .output, addr := 0x2000#16, dout := trunc8 s.bank, settleCnt := 0
          phase := .bankWin, cur := 0x4000#17, endAddr := 0x7FFF#16, env := e
          trace := s.trace ++
            [.dir .output, .addr 0x2000#16, .settle, .drive (trunc8 s.bank), .mode .write, .settle,
              .mode .read]
          clocks := s.clocks + 2 * s.params.settleCycles + 5 } ∧
      e.cart.cells = s.env.cart.cells ∧ e.rx = s.env.rx ∧ e.draws = s.env.draws

/-- selectBank asserts Read mode (R131): reached with MODE = Write, the model faults. Model's choice of
the stop, log 12. -/
def Obligations.SelectInWriteModeFaults : Prop :=
  ∀ s : State, s.env.pins.rst = false → s.dstate = .executing → s.rspValid = false →
    s.micro = .none → s.phase = .select → s.mode = .write → step s = .fault .selectInWriteMode

/-- The value written on the data lines is the bank index mod 256 (R132); index 256 is written as 0x00. -/
def Obligations.BankIndexTruncated : Prop :=
  (∀ s : State, (writeOperand s).toNat = s.bank.toNat % 256) ∧ trunc8 256#9 = 0x00#8

/-- bankCount (R130), on every code. -/
def Obligations.BankCountTable : Prop :=
  ∀ code : Byte,
    (code ≤ 0x07#8 → (bankCount code).map BitVec.toNat = some (2 ^ (code.toNat + 1))) ∧
    (code = 0x52#8 → bankCount code = some 72#9) ∧
    (code = 0x53#8 → bankCount code = some 80#9) ∧
    (code = 0x54#8 → bankCount code = some 96#9) ∧
    (0x07#8 < code → code ≠ 0x52#8 → code ≠ 0x53#8 → code ≠ 0x54#8 → bankCount code = none) ∧
    ∀ n, bankCount code = some n → 1 ≤ n.toNat ∧ n.toNat ≤ 256

/-- The base window is bank-independent, the bank window is not (R52): outside 0x4000 to 0x7FFF an address
names the same location whatever bank is selected; inside, two banks name two locations. Above 0x7FFF this is
the model's choice, log 5: the block drives no such address (R51). -/
def Obligations.BankWindowDependsOnBank : Prop :=
  ∀ (a : Word16) (b b' : Byte),
    (a < 0x4000#16 → location b a = location b' a) ∧
    (0x7FFF#16 < a → location b a = location b' a) ∧
    (0x4000#16 ≤ a → a ≤ 0x7FFF#16 → b ≠ b' → location b a ≠ location b' a)

/-! ### The iterator -/

/-- The phases move only as R158 lists them: Done is entered from RomSize with abort and otherwise with end;
Select is entered first with bank 1 and the bank count of the code, and again only for the next bank, while
BANK < NBANKS; no other Execute step in Select or BankWin changes BANK or NBANKS, and BankWin ends only at
the last bank. So each bank has one Select and one BankWin. Outside a command PHASE is None. -/
def Obligations.PhasesMoveAsListed : Prop :=
  ∀ s t : State, s.Legal → s.env.pins.rst = false → step s = .next t →
    (t.dstate = .idle → t.phase = .none) ∧
    (s.dstate = .executing →
      phaseStep s.phase t.phase = true ∧
      (s.phase = .romSize → t.phase = .done → t.iterEnd = .aborted) ∧
      (s.phase ≠ .romSize → s.phase ≠ .done → t.phase = .done → t.iterEnd = .ended) ∧
      (s.phase = .romSize → t.phase = .select → t.bank = 1#9 ∧ bankCount t.romcode = some t.nbanks) ∧
      (s.phase = .select → t.bank = s.bank ∧ t.nbanks = s.nbanks) ∧
      (s.phase = .bankWin → t.nbanks = s.nbanks ∧
        (t.phase = .select → s.bank < s.nbanks ∧ t.bank = s.bank + 1#9) ∧
        (t.phase ≠ .select → t.bank = s.bank) ∧
        (t.phase = .done → s.bank = s.nbanks)))

/-- The ROM-size code decides between the banks and the abort (R153, R154, R155): the sample in the RomSize
phase is kept and not sent; a supported code gives NBANKS and bank 1, an unsupported one ends the iterator
with abort, no bank selected. -/
def Obligations.RomSizeDecidesBanks : Prop :=
  ∀ s : State, s.env.pins.rst = false → s.dstate = .executing → s.rspValid = false →
    s.micro = .readSample → s.phase = .romSize →
    ∃ t, step s = .next t ∧ t.romcode = s.env.busByte s.addr ∧ t.rspValid = false ∧ t.rsp = s.rsp ∧
      t.trace = s.trace ++ [.sample s.addr (s.env.busByte s.addr)] ∧
      (∀ n, bankCount (s.env.busByte s.addr) = some n →
        t.phase = .select ∧ t.nbanks = n ∧ t.bank = 1#9 ∧ t.iterEnd = s.iterEnd) ∧
      (bankCount (s.env.busByte s.addr) = none →
        t.phase = .done ∧ t.iterEnd = .aborted ∧ t.nbanks = s.nbanks ∧ t.bank = s.bank)

/-- The abort (R221): the dispatcher calls End(): STATUS Off and its event, DSTATE Idle, PHASE None;
nothing is sent, nothing is recorded, every other register keeps its value. -/
def Obligations.AbortEndsCommand : Prop :=
  ∀ s : State, s.env.pins.rst = false → s.dstate = .executing → s.rspValid = false →
    s.micro = .none → s.phase = .done → s.iterEnd = .aborted → s.status = .blinking →
    step s = .next { advanceInputs s with
      status := .off, phase := .none, dstate := .idle
      trace := s.trace ++ [.status .off], clocks := s.clocks + 1 }

/-! ### The transport -/

/-- Send (R182): a waiting byte holds every other step, for as long as rsp_ready is 0. With any schedule of
the inputs, an edge with rsp_ready = 0 changes nothing but the inputs and the clock, so over any number of
such edges RSP, RSP_VALID and every other register hold (no bound, no timeout); the edge with rsp_ready = 1
emits Send and clears RSP_VALID, and changes nothing else, after however many edges it comes (R232). -/
def Obligations.ResponseByteWaits : Prop :=
  (∀ s : State, s.dstate = .executing → s.rspValid = true →
    s.env.pins.rst = false → s.env.pins.rspReady = false →
    step s = .next { advanceInputs s with clocks := s.clocks + 1 }) ∧
  (∀ s : State, s.dstate = .executing → s.rspValid = true →
    s.env.pins.rst = false → s.env.pins.rspReady = true →
    step s = .next { advanceInputs s with
      rspValid := false, trace := s.trace ++ [.send s.rsp], clocks := s.clocks + 1 }) ∧
  ∀ (s : State) (k : Nat), s.dstate = .executing → s.rspValid = true →
    (∀ j < k, (s.env.advanceBy j).pins.rst = false ∧ (s.env.advanceBy j).pins.rspReady = false) →
    runSteps k s = .next { s with env := s.env.advanceBy k, clocks := s.clocks + k } ∧
    ((s.env.advanceBy k).pins.rst = false → (s.env.advanceBy k).pins.rspReady = true →
      runSteps (k + 1) s = .next { s with
        env := s.env.advanceBy (k + 1), rspValid := false, trace := s.trace ++ [.send s.rsp]
        clocks := s.clocks + k + 1 })

/-- One command at a time (R184): while Executing, cmd_ready is 0, no step takes a command byte, and the
transport keeps every byte it holds. -/
def Obligations.BusyBlockTakesNoByte : Prop :=
  ∀ s : State, s.dstate = .executing → s.cmdReady = false ∧
    ∀ t, s.env.pins.rst = false → step s = .next t →
      t.env.rx = s.env.rx ∧ ∃ es, t.trace = s.trace ++ es ∧ ∀ c, Event.accept c ∉ es

/-- Quiet bus while waiting (R245): in Idle, and while a response byte waits, no bus line changes, whatever
the step does. -/
def Obligations.BusQuietWhileWaiting : Prop :=
  ∀ s t : State, s.env.pins.rst = false → (s.dstate = .idle ∨ s.rspValid = true) →
    step s = .next t →
    t.addrHigh = s.addrHigh ∧ t.addrLow = s.addrLow ∧ t.dataEnable = s.dataEnable ∧
    t.dataLines = s.dataLines ∧ t.rd = s.rd ∧ t.wr = s.wr

/-- No cancellation (R196): with no reset, the block leaves Executing only where the response has ended: the
iterator is Done, or the probe's byte has been taken. That it gets there is CommandsComplete. -/
def Obligations.ExecutingLeftOnlyAtEnd : Prop :=
  ∀ s t : State, s.env.pins.rst = false → s.dstate = .executing → step s = .next t →
    t.dstate = .idle →
    s.rspValid = false ∧ s.micro = .none ∧
    (s.phase = .done ∨ s.phase = .none ∧ s.cmd = 0x01#8)

/-! ### Every step -/

/-- The legal states are kept by every step, with any inputs. Its clause on the cartridge's bank register is
the model's choice of the latch, log 5; the fields it says the model adds are log 14's. -/
def Obligations.LegalKept : Prop :=
  ∀ s t : State, s.Legal → step s = .next t → t.Legal

/-- No legal state faults or refuses (R220, R104): a step answers a next state. -/
def Obligations.LegalNeverStops : Prop :=
  ∀ s : State, s.Legal → ∃ t, step s = .next t

/-- The settle rule of every trace (R108) is kept by every step, with any inputs, resets among them. -/
def Obligations.SettleRuleKept : Prop :=
  ∀ s t : State, s.SettleSafe → step s = .next t → t.SettleSafe

/-- No address above 0x7FFF is driven (R51), a sample is of the address last driven (R14), and a data value
is driven only at 0x2000 (R134): kept by every step, with any inputs. -/
def Obligations.AddressRuleKept : Prop :=
  ∀ s t : State, s.AddressSafe → step s = .next t → t.AddressSafe

/-- Every byte sent is the sample just before it, or the probe value (R63): kept by every step, with any
inputs and delays. -/
def Obligations.ResponseRuleKept : Prop :=
  ∀ s t : State, s.ResponseSafe → step s = .next t → t.ResponseSafe

/-- Every trace of the block, from any state R38 allows after reset, whatever the nine unspecified registers
hold, whatever the cartridge holds, whatever the inputs do at whatever edge and whatever bytes the host sends:
the settle rule (R108), the addresses of R51, a sample of the address last driven (R14), a data value only
at 0x2000 (R134), and every byte sent is the sample just before it (R63, R182) or the probe value (R185). -/
def Obligations.EveryTraceObeysTheRules : Prop :=
  ∀ (s t : State) (k : Nat), s.AfterReset → runSteps k s = .next t →
    SettleRule t.trace ∧ AddressRule t.trace ∧ ResponseRule t.trace

/-- The checker of the settle rule accepts a trace exactly where the rule holds (R108, the table of
95_test_vectors.md §2.4). -/
def Obligations.SettleCheckerDecidesRule : Prop :=
  ∀ t : List Event, settleChecked t = true ↔ SettleRule t

/-- Bus-mode symmetry (R194): after any command completes, the bus mode is Read. -/
def Obligations.ModeReadAfterCommand : Prop :=
  ∀ s t : State, s.Legal → s.dstate = .executing → step s = .next t → t.dstate = .idle →
    t.mode = .read

/-- The Bus Driver owns the bus registers (R110): with no reset, a change of MODE, ADDR, DDIR or DOUT is a
step that emits the event of that register with its new value. -/
def Obligations.BusChangesAreEvents : Prop :=
  ∀ s t : State, s.env.pins.rst = false → step s = .next t →
    (t.mode ≠ s.mode → t.trace = s.trace ++ [.mode t.mode]) ∧
    (t.addr ≠ s.addr → t.trace = s.trace ++ [.addr t.addr]) ∧
    (t.ddir ≠ s.ddir → t.trace = s.trace ++ [.dir t.ddir]) ∧
    (t.dout ≠ s.dout → t.trace = s.trace ++ [.drive t.dout])

/-- No step writes the parameters or any byte of the cartridge's contents (R51, R243), and the trace only
grows. That the write to 0x2000 stores into no location is the model's choice, log 5. -/
def Obligations.StepsKeepCartridge : Prop :=
  ∀ s t : State, step s = .next t →
    t.params = s.params ∧
    (∀ (b : Byte) (a : Word16),
      Memory.read t.env.cart.cells (location b a) = Memory.read s.env.cart.cells (location b a)) ∧
    ∃ es, t.trace = s.trace ++ es

/-- The block checks no bus value (R223): two states that differ only in the cartridge, the samples and the
bytes read from it take steps that differ only so, but where the ROM-size code is sampled. -/
def Obligations.BusDataDoesNotSteer : Prop :=
  ∀ s t : State, s.eraseData = t.eraseData → ¬ (s.micro = .readSample ∧ s.phase = .romSize) →
    eraseOutcome (step s) = eraseOutcome (step t)

/-! ### Whole commands, with a prompt transport -/

/-- PROBE (R185): the response is exactly 0xA0, whatever the state before, and no bus line changes. The exact
count of steps is the model's (logs 1 and 16), as is the untouched environment (log 4). -/
def Obligations.ProbeCommand : Prop :=
  ∀ s : State, s.Ready 0x01#8 →
    ∃ t, runSteps 3 s = .next t ∧ Finished s t ∧
      t.trace = s.trace ++ [.accept 0x01#8, .send 0xA0#8] ∧
      responseBytes t.trace = responseBytes s.trace ++ [0xA0#8] ∧
      t.rsp = 0xA0#8 ∧ t.addr = s.addr ∧ t.ddir = s.ddir ∧ t.dout = s.dout ∧ t.mode = s.mode ∧
      t.env = { s.env with rx := s.env.rx.tail }

/-- RDTYPE, RDROMSZ and RDGBC (R186, R187, R188): exactly one byte, equal to a direct bus read at 0x0147,
0x0148 or 0x0143, with the trace the rules give. The exact count of steps is the model's (logs 9 and 16), as
is the untouched cartridge (log 4). -/
def Obligations.SingleReadCommands : Prop :=
  ∀ (s : State) (c : Byte) (a : Word16),
    (c, a) ∈ [(0x02#8, 0x0147#16), (0x03#8, 0x0148#16), (0x04#8, 0x0143#16)] → s.Ready c →
    ∃ t, runSteps (s.params.settleCycles + 6) s = .next t ∧ Finished s t ∧
      t.trace = s.trace ++ .accept c :: sentEvents a (s.env.busByte a) ∧
      responseBytes t.trace = responseBytes s.trace ++ [s.env.busByte a] ∧
      t.ddir = .input ∧ t.addr = a ∧ t.rsp = s.env.busByte a ∧ t.dout = s.dout ∧ t.cmd = c ∧
      t.env = { s.env with rx := s.env.rx.tail, draws := s.env.draws + 1 }

/-- RDTITLE, RDLOGO and RDCKSUM (R189, R190, R192): exactly 16, 48 and 2 bytes, at ascending addresses,
inside the status bracket. The exact count of steps is the model's (logs 9, 16 and 18), as are the untouched
cartridge and the numbered draws (log 4). -/
def Obligations.RangeReadCommands : Prop :=
  ∀ (s : State) (c : Byte) (first last : Word16) (n : Nat),
    (c, first, last, n) ∈ [(0x05#8, 0x0134#16, 0x0143#16, 16), (0x06#8, 0x0104#16, 0x0133#16, 48),
      (0x08#8, 0x014E#16, 0x014F#16, 2)] →
    s.Ready c →
    ∃ t, runSteps (n * (s.params.settleCycles + 4) + 3) s = .next t ∧ Finished s t ∧
      t.trace = s.trace ++ [.accept c, .status .blinking] ++
        rangeEvents s.env.cart.cells s.env.cart.bankReg s.env.draws first n ++ [.status .off] ∧
      responseBytes t.trace = responseBytes s.trace ++
        rangeBytes s.env.cart.cells s.env.cart.bankReg s.env.draws first n ∧
      t.ddir = .input ∧ t.addr = last ∧ t.dout = s.dout ∧ t.cmd = c ∧
      t.env = { s.env with rx := s.env.rx.tail, draws := s.env.draws + n }

/-- DUMP with a supported ROM-size code (R153, R156, R191): the base window, the ROM-size read that is not
sent, then for each bank its selection and the whole bank window; 0x4000 + NBANKS × 0x4000 response bytes,
each the sample R156 names. That the cartridge's bank register takes the index at the Write pulse is the
model's choice, log 5; that known bytes stay known is its premise, log 4. -/
def Obligations.DumpSupportedCommand : Prop :=
  ∀ (s : State) (n : BankNo), s.Ready 0x07#8 →
    bankCount (dumpCode s.env.cart.cells s.env.cart.bankReg s.env.draws) = some n →
    ∃ t, Reaches s t ∧ Finished s t ∧
      t.trace = s.trace ++ dumpHead s.env.cart.cells s.env.cart.bankReg s.env.draws ++
        windowEvents s.env.cart.cells s.env.draws n.toNat ++ [.status .off] ∧
      responseBytes t.trace = responseBytes s.trace ++
        (rangeBytes s.env.cart.cells s.env.cart.bankReg s.env.draws 0x0000#16 0x4000 ++
          windowBytes s.env.cart.cells s.env.draws n.toNat) ∧
      (responseBytes t.trace).length =
        (responseBytes s.trace).length + (0x4000 + n.toNat * 0x4000) ∧
      t.ddir = .input ∧ t.addr = 0x7FFF#16 ∧ t.dout = trunc8 n ∧ t.nbanks = n ∧ t.bank = n ∧
      t.env.cart.bankReg = trunc8 n

/-- DUMP with an unsupported ROM-size code (R155, R221, R191): the base window is sent and stays sent, no
bank is selected and no byte of the bank window is read or sent; the response is exactly 0x4000 bytes. That
the cartridge is then as before is the model's choice, logs 4 and 5. -/
def Obligations.DumpUnsupportedCommand : Prop :=
  ∀ s : State, s.Ready 0x07#8 →
    bankCount (dumpCode s.env.cart.cells s.env.cart.bankReg s.env.draws) = none →
    ∃ t, Reaches s t ∧ Finished s t ∧
      t.trace = s.trace ++ dumpHead s.env.cart.cells s.env.cart.bankReg s.env.draws ++
        [.status .off] ∧
      responseBytes t.trace = responseBytes s.trace ++
        rangeBytes s.env.cart.cells s.env.cart.bankReg s.env.draws 0x0000#16 0x4000 ∧
      (responseBytes t.trace).length = (responseBytes s.trace).length + 0x4000 ∧
      t.ddir = .input ∧ t.addr = 0x0148#16 ∧ t.dout = s.dout ∧
      t.env.cart = s.env.cart ∧ t.env.draws = s.env.draws + 0x4001

/-- Length and content of the response to DUMP (R156), byte by byte: with NBANKS = n, byte i below 0x4000 is
the sample at address i, and byte 0x4000 + (b - 1) × 0x4000 + j the sample at address 0x4000 + j taken after
`selectBank(b)`; with an unsupported code the response has exactly 0x4000 bytes. The sample's value is the
byte known there, or the free draw of that sample's number (R26, log 4). That the bank window shows the bank last
selected by its Write pulse is the model's choice, log 5. -/
def Obligations.DumpResponse : Prop :=
  ∀ s : State, s.Ready 0x07#8 →
    ∃ t bytes, Reaches s t ∧ t.dstate = .idle ∧
      responseBytes t.trace = responseBytes s.trace ++ bytes ∧
      (∀ i < 0x4000, bytes[i]? =
        some (byteAt s.env.cart.cells s.env.cart.bankReg (s.env.draws + i) (BitVec.ofNat 16 i))) ∧
      (∀ n, bankCount (dumpCode s.env.cart.cells s.env.cart.bankReg s.env.draws) = some n →
        bytes.length = 0x4000 + n.toNat * 0x4000 ∧
        ∀ b j, 1 ≤ b → b ≤ n.toNat → j < 0x4000 →
          bytes[0x4000 + (b - 1) * 0x4000 + j]? =
            some (byteAt s.env.cart.cells (trunc8 (BitVec.ofNat 9 b))
              (s.env.draws + 0x4001 + (b - 1) * 0x4000 + j) (0x4000#16 + BitVec.ofNat 16 j))) ∧
      (bankCount (dumpCode s.env.cart.cells s.env.cart.bankReg s.env.draws) = none →
        bytes.length = 0x4000)

/-- The bus work of one DUMP (R157): its reads, writes, mode changes and settle waits, counted. -/
def Obligations.DumpBusWorkCounts : Prop :=
  ∀ s : State, s.Ready 0x07#8 →
    ∃ t es, Reaches s t ∧ t.dstate = .idle ∧ t.trace = s.trace ++ es ∧
      (∀ n, bankCount (dumpCode s.env.cart.cells s.env.cart.bankReg s.env.draws) = some n →
        es.countP Event.isSample = 0x4000 + 1 + n.toNat * 0x4000 ∧
        es.countP Event.isDrive = n.toNat ∧
        es.countP Event.isMode = 2 * n.toNat ∧
        es.countP Event.isSettle = 0x4000 + 1 + n.toNat * 0x4000 + 2 * n.toNat) ∧
      (bankCount (dumpCode s.env.cart.cells s.env.cart.bankReg s.env.draws) = none →
        es.countP Event.isSample = 0x4001 ∧ es.countP Event.isDrive = 0 ∧
        es.countP Event.isMode = 0 ∧ es.countP Event.isSettle = 0x4001)

/-- Idempotence (R195) of the header commands: where the bytes of the field are known and so unchanged
between the calls, issuing the same command twice yields the same bytes twice. That a known byte stays as
it is is the model's premise, log 4. -/
def Obligations.HeaderReadsIdempotent : Prop :=
  ∀ (s : State) (c : Byte) (first : Word16) (n : Nat) (rest : List Byte),
    (c, first, n) ∈ [(0x02#8, 0x0147#16, 1), (0x03#8, 0x0148#16, 1), (0x04#8, 0x0143#16, 1),
      (0x05#8, 0x0134#16, 16), (0x06#8, 0x0104#16, 48), (0x08#8, 0x014E#16, 2)] →
    s.Ready c → s.env.rx = c :: c :: rest →
    (∀ i < n, ∃ v, s.env.cart.knownByte (first + BitVec.ofNat 16 i) = some v) →
    ∃ t bytes, Reaches s t ∧ t.dstate = .idle ∧ t.env.rx = rest ∧ bytes.length = n ∧
      (∀ i < n, bytes[i]? = s.env.cart.knownByte (first + BitVec.ofNat 16 i)) ∧
      responseBytes t.trace = responseBytes s.trace ++ bytes ++ bytes

/-! ### Whole commands, in the terms of R13 and R14 alone -/

/-- The responses of the commands 0x01 to 0x06 and 0x08 (R185 to R190, R192): the events of the whole command,
the bytes sent as its samples gave them, whatever the environment drove; the bus registers it leaves; Idle,
Read mode and STATUS Off at its end. -/
def Obligations.CommandTraces : Prop :=
  (∀ s : State, s.Ready 0x01#8 →
    ∃ t, Reaches s t ∧ t.dstate = .idle ∧ t.status = .off ∧
      t.trace = s.trace ++ [.accept 0x01#8, .send 0xA0#8] ∧
      responseBytes t.trace = responseBytes s.trace ++ [0xA0#8] ∧
      t.rsp = 0xA0#8 ∧ t.mode = s.mode ∧ t.addr = s.addr ∧ t.ddir = s.ddir ∧ t.dout = s.dout) ∧
  (∀ (s : State) (c : Byte) (a : Word16),
    (c, a) ∈ [(0x02#8, 0x0147#16), (0x03#8, 0x0148#16), (0x04#8, 0x0143#16)] → s.Ready c →
    ∃ t v, Reaches s t ∧ t.dstate = .idle ∧ t.status = .off ∧ t.phase = .none ∧
      t.trace = s.trace ++ [.accept c] ++ readsOf a [v] ∧
      responseBytes t.trace = responseBytes s.trace ++ [v] ∧
      t.rsp = v ∧ t.mode = .read ∧ t.addr = a ∧ t.ddir = .input ∧ t.dout = s.dout) ∧
  ∀ (s : State) (c : Byte) (first last : Word16) (n : Nat),
    (c, first, last, n) ∈ [(0x05#8, 0x0134#16, 0x0143#16, 16), (0x06#8, 0x0104#16, 0x0133#16, 48),
      (0x08#8, 0x014E#16, 0x014F#16, 2)] →
    s.Ready c →
    ∃ t bytes, Reaches s t ∧ t.dstate = .idle ∧ t.status = .off ∧ t.phase = .none ∧ bytes.length = n ∧
      t.trace = s.trace ++ [.accept c, .status .blinking] ++ readsOf first bytes ++ [.status .off] ∧
      responseBytes t.trace = responseBytes s.trace ++ bytes ∧
      t.mode = .read ∧ t.addr = last ∧ t.ddir = .input ∧ t.dout = s.dout

/-- The trace of DUMP (R153 to R156), whatever the environment drove: the base window, each byte sent; the
ROM-size code, sampled and not sent; for an unsupported code nothing more but the end of the bracket, with
exactly 0x4000 response bytes; else for each bank from 1 to NBANKS its selection and its window of 0x4000
bytes, each sent: 0x4000 + NBANKS × 0x4000 bytes in the order of their samples. -/
def Obligations.DumpTrace : Prop :=
  ∀ s : State, s.Ready 0x07#8 →
    ∃ t base code windows, Reaches s t ∧ t.dstate = .idle ∧ t.status = .off ∧ t.mode = .read ∧
      base.length = 0x4000 ∧ (∀ w ∈ windows, w.length = 0x4000) ∧
      t.trace = s.trace ++ [.accept 0x07#8, .status .blinking] ++ readsOf 0x0000#16 base ++
        readEvents 0x0148#16 code ++ windowsOf 0 windows ++ [.status .off] ∧
      responseBytes t.trace = responseBytes s.trace ++ base ++ windows.flatten ∧
      (bankCount code = none → windows = []) ∧
      (∀ n, bankCount code = some n → windows.length = n.toNat ∧
        (base ++ windows.flatten).length = 0x4000 + n.toNat * 0x4000)

/-- Idempotence (R195) of DUMP: where the bytes of the base window and of the windows it reads are known and
so unchanged between the calls, two DUMPs yield the same bytes twice, though the second starts with the bank
the first left selected: the base window does not depend on it (R52). That known bytes stay known is the
model's premise (log 4), and that the bank window shows the bank last selected is its choice of the latch
(log 5). -/
def Obligations.DumpIdempotent : Prop :=
  ∀ (s : State) (rest : List Byte) (code : Byte),
    s.Ready 0x07#8 → s.env.rx = 0x07#8 :: 0x07#8 :: rest →
    s.env.cart.knownByte 0x0148#16 = some code →
    (∀ a : Word16, a ≤ 0x3FFF#16 → ∃ v, s.env.cart.knownByte a = some v) →
    (∀ n, bankCount code = some n → ∀ b, 1 ≤ b → b ≤ n.toNat → ∀ a : Word16,
      0x4000#16 ≤ a → a ≤ 0x7FFF#16 →
      ∃ v, Memory.read s.env.cart.cells (location (trunc8 (BitVec.ofNat 9 b)) a) = some v) →
    ∃ t bytes, Reaches s t ∧ t.dstate = .idle ∧ t.env.rx = rest ∧
      (∀ n, bankCount code = some n → bytes.length = 0x4000 + n.toNat * 0x4000) ∧
      (bankCount code = none → bytes.length = 0x4000) ∧
      responseBytes t.trace = responseBytes s.trace ++ bytes ++ bytes

/-- The frame of the Execute steps of each command (R37, R185 to R192): CMD and the parameters hold; only DUMP
writes MODE, DOUT, BANK, NBANKS and ROMCODE, and END once started; only DUMP reaches the cartridge's bank
register (log 5); PROBE writes no bus register, no CUR and no RSP; the commands 0x01 to 0x04 leave CUR and
STATUS. -/
def Obligations.ExecuteStepFrame : Prop :=
  ∀ s t : State, s.Legal → s.env.pins.rst = false → s.dstate = .executing → step s = .next t →
    t.cmd = s.cmd ∧ t.params = s.params ∧
    (s.cmd ≠ 0x07#8 → t.mode = s.mode ∧ t.dout = s.dout ∧ t.bank = s.bank ∧ t.nbanks = s.nbanks ∧
      t.romcode = s.romcode ∧ t.endAddr = s.endAddr ∧ t.env.cart = s.env.cart) ∧
    (s.cmd = 0x01#8 → t.addr = s.addr ∧ t.ddir = s.ddir ∧ t.rsp = s.rsp) ∧
    (s.cmd ≤ 0x04#8 → t.cur = s.cur ∧ t.status = s.status)

/-- A command that has begun runs to completion (R196, R181): from every legal executing state, in whatever
phase, primitive or settle wait, with a transport that takes every byte and no reset, the block comes back to
Idle, in Read mode (R194) and with STATUS Off. -/
def Obligations.CommandsComplete : Prop :=
  ∀ s : State, s.Legal → s.dstate = .executing → s.attended →
    ∃ t, Reaches s t ∧ t.dstate = .idle ∧ t.mode = .read ∧ t.status = .off
end

