-- ==== Sys2Proof/Laws/Memory.lean ====
section
/-! SUPPORT. The memory of known cartridge locations: read after write, and the canonical form. -/

namespace Sys2Proof.Machine

theorem read_write_same (m : Memory) (n : Nat) (b : Byte) : (m.write n b).read n = some b := by
  induction m with
  | nil => simp [Memory.write, Memory.read]
  | cons c rest ih =>
    obtain ⟨k, v⟩ := c
    simp only [Memory.write]
    split
    · simp [Memory.read]
    · split
      · simp [Memory.read]
      · simp [Memory.read, ih, show k ≠ n by omega]

theorem read_write_other (m : Memory) (n k : Nat) (b : Byte) (h : k ≠ n) :
    (m.write n b).read k = m.read k := by
  induction m with
  | nil => simp [Memory.write, Memory.read, h.symm]
  | cons c rest ih =>
    obtain ⟨j, v⟩ := c
    simp only [Memory.write]
    split
    · simp [Memory.read, h.symm]
    · split
      · rename_i hj; subst hj; simp [Memory.read, h.symm]
      · simp [Memory.read, ih]

/-- Nothing is listed at or below a bound that every entry lies above. -/
theorem read_wfAbove {m : Memory} {n k : Nat} (h : m.wfAbove n = true) (hk : k ≤ n) :
    m.read k = none := by
  induction m generalizing n with
  | nil => rfl
  | cons c rest ih =>
    obtain ⟨j, v⟩ := c
    simp only [Memory.wfAbove, Bool.and_eq_true, decide_eq_true_eq] at h
    simp [Memory.read, show j ≠ k by omega, ih h.2 (by omega)]

theorem wfAbove_write {m : Memory} {l n : Nat} (b : Byte) (h : m.wfAbove l = true) (hl : l < n)
    (hn : isLocation n = true) : (m.write n b).wfAbove l = true := by
  induction m generalizing l with
  | nil => simp [Memory.write, Memory.wfAbove, hl, hn]
  | cons c rest ih =>
    obtain ⟨k, v⟩ := c
    simp only [Memory.wfAbove, Bool.and_eq_true, decide_eq_true_eq] at h
    simp only [Memory.write]
    split
    · rename_i hk; simp [Memory.wfAbove, hl, hn, hk, h.1.2, h.2]
    · split
      · rename_i hk; subst hk; simp [Memory.wfAbove, hl, hn, h.2]
      · simp [Memory.wfAbove, h.1.1, h.1.2, ih h.2 (by omega)]

/-- Making a byte known keeps the canonical form. -/
theorem wf_write {m : Memory} {n : Nat} (b : Byte) (h : m.wf = true) (hn : isLocation n = true) :
    (m.write n b).wf = true := by
  cases m with
  | nil => simp [Memory.write, Memory.wf, Memory.wfAbove, hn]
  | cons c rest =>
    obtain ⟨k, v⟩ := c
    simp only [Memory.wf, Bool.and_eq_true] at h
    simp only [Memory.write]
    split
    · rename_i hk; simp [Memory.wf, Memory.wfAbove, hn, hk, h.1, h.2]
    · split
      · rename_i hk; subst hk; simp [Memory.wf, hn, h.2]
      · simp [Memory.wf, h.1, wfAbove_write b h.2 (by omega) hn]

theorem wfAbove_mono {m : Memory} {l n : Nat} (h : m.wfAbove n = true) (hl : l ≤ n) :
    m.wfAbove l = true := by
  cases m with
  | nil => rfl
  | cons c rest =>
    simp only [Memory.wfAbove, Bool.and_eq_true, decide_eq_true_eq] at h ⊢
    exact ⟨⟨by omega, h.1.2⟩, h.2⟩

theorem wfAbove_forget {m : Memory} {l : Nat} (n : Nat) (h : m.wfAbove l = true) :
    (m.forget n).wfAbove l = true := by
  induction m generalizing l with
  | nil => rfl
  | cons c rest ih =>
    obtain ⟨k, v⟩ := c
    simp only [Memory.wfAbove, Bool.and_eq_true, decide_eq_true_eq] at h
    simp only [Memory.forget]
    split
    · exact wfAbove_mono h.2 (by omega)
    · simp [Memory.wfAbove, h.1.1, h.1.2, ih h.2]

theorem wf_of_wfAbove {m : Memory} {l : Nat} (h : m.wfAbove l = true) : m.wf = true := by
  cases m with
  | nil => rfl
  | cons c rest =>
    simp only [Memory.wfAbove, Memory.wf, Bool.and_eq_true] at h ⊢
    exact ⟨h.1.2, h.2⟩

/-- Making a byte unknown keeps the canonical form. -/
theorem wf_forget {m : Memory} (n : Nat) (h : m.wf = true) : (m.forget n).wf = true := by
  cases m with
  | nil => rfl
  | cons c rest =>
    obtain ⟨k, v⟩ := c
    simp only [Memory.wf, Bool.and_eq_true] at h
    simp only [Memory.forget]
    split
    · exact wf_of_wfAbove h.2
    · simp [Memory.wf, h.1, wfAbove_forget n h.2]

/-- Every address of the bus names a location, whatever bank is selected. -/
theorem isLocation_location (b : Byte) (a : Word16) : isLocation (location b a) = true := by
  have ha := a.isLt
  have hb := b.isLt
  unfold location
  split
  · rename_i hw
    have hm : BitVec.ofNat 16 (b.toNat * 0x10000 + a.toNat) = a := by
      apply BitVec.eq_of_toNat_eq
      simp only [BitVec.toNat_ofNat]
      omega
    simp only [isLocation, hm, hw, Bool.and_true, Bool.or_eq_true, decide_eq_true_eq]
    omega
  · simp only [isLocation, Bool.or_eq_true, decide_eq_true_eq]
    omega

end Sys2Proof.Machine
end

