-- ==== Sys2Proof/Laws/PerInstr.lean ====
section
/-! SUPPORT. Facts stated per instruction of the command map. -/

namespace Sys2Proof.Laws.OneByte

/-- One command is one byte (spec/30_encoding.md R70, R75): its code is its one byte, and what follows that
byte is not part of it. -/
def Statement (i : Instr) : Prop :=
  encode i = [encodeByte i] ∧
    ∀ rest, decode (encode i ++ rest) = .ok (decodeByte (encodeByte i), rest)

theorem probe : Statement .probe := ⟨rfl, fun _ => rfl⟩
theorem rdtype : Statement .rdtype := ⟨rfl, fun _ => rfl⟩
theorem rdromsz : Statement .rdromsz := ⟨rfl, fun _ => rfl⟩
theorem rdgbc : Statement .rdgbc := ⟨rfl, fun _ => rfl⟩
theorem rdtitle : Statement .rdtitle := ⟨rfl, fun _ => rfl⟩
theorem rdlogo : Statement .rdlogo := ⟨rfl, fun _ => rfl⟩
theorem dump : Statement .dump := ⟨rfl, fun _ => rfl⟩
theorem rdcksum : Statement .rdcksum := ⟨rfl, fun _ => rfl⟩
theorem ignored (byte : Byte) : Statement (.ignored byte) := ⟨rfl, fun _ => rfl⟩

end Sys2Proof.Laws.OneByte
end

