-- ==== Sys2Proof/Laws/State.lean ====
section
/-! SUPPORT. What each shared state update does to each field of State: one lemma per field per update. -/

namespace Sys2Proof.Machine

variable (s : State)

/-! ### emit -/

@[simp] theorem emit_params (e : Event) : (emit e s).params = s.params := rfl
@[simp] theorem emit_mode (e : Event) : (emit e s).mode = s.mode := rfl
@[simp] theorem emit_addr (e : Event) : (emit e s).addr = s.addr := rfl
@[simp] theorem emit_ddir (e : Event) : (emit e s).ddir = s.ddir := rfl
@[simp] theorem emit_dout (e : Event) : (emit e s).dout = s.dout := rfl
@[simp] theorem emit_settleCnt (e : Event) : (emit e s).settleCnt = s.settleCnt := rfl
@[simp] theorem emit_dstate (e : Event) : (emit e s).dstate = s.dstate := rfl
@[simp] theorem emit_cmd (e : Event) : (emit e s).cmd = s.cmd := rfl
@[simp] theorem emit_status (e : Event) : (emit e s).status = s.status := rfl
@[simp] theorem emit_rsp (e : Event) : (emit e s).rsp = s.rsp := rfl
@[simp] theorem emit_rspValid (e : Event) : (emit e s).rspValid = s.rspValid := rfl
@[simp] theorem emit_phase (e : Event) : (emit e s).phase = s.phase := rfl
@[simp] theorem emit_cur (e : Event) : (emit e s).cur = s.cur := rfl
@[simp] theorem emit_endAddr (e : Event) : (emit e s).endAddr = s.endAddr := rfl
@[simp] theorem emit_bank (e : Event) : (emit e s).bank = s.bank := rfl
@[simp] theorem emit_nbanks (e : Event) : (emit e s).nbanks = s.nbanks := rfl
@[simp] theorem emit_romcode (e : Event) : (emit e s).romcode = s.romcode := rfl
@[simp] theorem emit_iterEnd (e : Event) : (emit e s).iterEnd = s.iterEnd := rfl
@[simp] theorem emit_micro (e : Event) : (emit e s).micro = s.micro := rfl
@[simp] theorem emit_env (e : Event) : (emit e s).env = s.env := rfl
@[simp] theorem emit_trace (e : Event) : (emit e s).trace = s.trace ++ [e] := rfl
@[simp] theorem emit_clocks (e : Event) : (emit e s).clocks = s.clocks + 1 := rfl

/-! ### emitAll -/

@[simp] theorem emitAll_params (es : List Event) : (emitAll es s).params = s.params := rfl
@[simp] theorem emitAll_mode (es : List Event) : (emitAll es s).mode = s.mode := rfl
@[simp] theorem emitAll_addr (es : List Event) : (emitAll es s).addr = s.addr := rfl
@[simp] theorem emitAll_ddir (es : List Event) : (emitAll es s).ddir = s.ddir := rfl
@[simp] theorem emitAll_dout (es : List Event) : (emitAll es s).dout = s.dout := rfl
@[simp] theorem emitAll_settleCnt (es : List Event) : (emitAll es s).settleCnt = s.settleCnt := rfl
@[simp] theorem emitAll_dstate (es : List Event) : (emitAll es s).dstate = s.dstate := rfl
@[simp] theorem emitAll_cmd (es : List Event) : (emitAll es s).cmd = s.cmd := rfl
@[simp] theorem emitAll_status (es : List Event) : (emitAll es s).status = s.status := rfl
@[simp] theorem emitAll_rsp (es : List Event) : (emitAll es s).rsp = s.rsp := rfl
@[simp] theorem emitAll_rspValid (es : List Event) : (emitAll es s).rspValid = s.rspValid := rfl
@[simp] theorem emitAll_phase (es : List Event) : (emitAll es s).phase = s.phase := rfl
@[simp] theorem emitAll_cur (es : List Event) : (emitAll es s).cur = s.cur := rfl
@[simp] theorem emitAll_endAddr (es : List Event) : (emitAll es s).endAddr = s.endAddr := rfl
@[simp] theorem emitAll_bank (es : List Event) : (emitAll es s).bank = s.bank := rfl
@[simp] theorem emitAll_nbanks (es : List Event) : (emitAll es s).nbanks = s.nbanks := rfl
@[simp] theorem emitAll_romcode (es : List Event) : (emitAll es s).romcode = s.romcode := rfl
@[simp] theorem emitAll_iterEnd (es : List Event) : (emitAll es s).iterEnd = s.iterEnd := rfl
@[simp] theorem emitAll_micro (es : List Event) : (emitAll es s).micro = s.micro := rfl
@[simp] theorem emitAll_env (es : List Event) : (emitAll es s).env = s.env := rfl
@[simp] theorem emitAll_trace (es : List Event) : (emitAll es s).trace = s.trace ++ es := rfl
@[simp] theorem emitAll_clocks (es : List Event) : (emitAll es s).clocks = s.clocks + es.length := rfl

/-! ### wait -/

@[simp] theorem wait_params : (wait s).params = s.params := rfl
@[simp] theorem wait_mode : (wait s).mode = s.mode := rfl
@[simp] theorem wait_addr : (wait s).addr = s.addr := rfl
@[simp] theorem wait_ddir : (wait s).ddir = s.ddir := rfl
@[simp] theorem wait_dout : (wait s).dout = s.dout := rfl
@[simp] theorem wait_settleCnt : (wait s).settleCnt = s.settleCnt := rfl
@[simp] theorem wait_dstate : (wait s).dstate = s.dstate := rfl
@[simp] theorem wait_cmd : (wait s).cmd = s.cmd := rfl
@[simp] theorem wait_status : (wait s).status = s.status := rfl
@[simp] theorem wait_rsp : (wait s).rsp = s.rsp := rfl
@[simp] theorem wait_rspValid : (wait s).rspValid = s.rspValid := rfl
@[simp] theorem wait_phase : (wait s).phase = s.phase := rfl
@[simp] theorem wait_cur : (wait s).cur = s.cur := rfl
@[simp] theorem wait_endAddr : (wait s).endAddr = s.endAddr := rfl
@[simp] theorem wait_bank : (wait s).bank = s.bank := rfl
@[simp] theorem wait_nbanks : (wait s).nbanks = s.nbanks := rfl
@[simp] theorem wait_romcode : (wait s).romcode = s.romcode := rfl
@[simp] theorem wait_iterEnd : (wait s).iterEnd = s.iterEnd := rfl
@[simp] theorem wait_micro : (wait s).micro = s.micro := rfl
@[simp] theorem wait_env : (wait s).env = s.env := rfl
@[simp] theorem wait_trace : (wait s).trace = s.trace := rfl
@[simp] theorem wait_clocks : (wait s).clocks = s.clocks + 1 := rfl

/-! ### advanceInputs -/

@[simp] theorem advanceInputs_params : (advanceInputs s).params = s.params := rfl
@[simp] theorem advanceInputs_mode : (advanceInputs s).mode = s.mode := rfl
@[simp] theorem advanceInputs_addr : (advanceInputs s).addr = s.addr := rfl
@[simp] theorem advanceInputs_ddir : (advanceInputs s).ddir = s.ddir := rfl
@[simp] theorem advanceInputs_dout : (advanceInputs s).dout = s.dout := rfl
@[simp] theorem advanceInputs_settleCnt : (advanceInputs s).settleCnt = s.settleCnt := rfl
@[simp] theorem advanceInputs_dstate : (advanceInputs s).dstate = s.dstate := rfl
@[simp] theorem advanceInputs_cmd : (advanceInputs s).cmd = s.cmd := rfl
@[simp] theorem advanceInputs_status : (advanceInputs s).status = s.status := rfl
@[simp] theorem advanceInputs_rsp : (advanceInputs s).rsp = s.rsp := rfl
@[simp] theorem advanceInputs_rspValid : (advanceInputs s).rspValid = s.rspValid := rfl
@[simp] theorem advanceInputs_phase : (advanceInputs s).phase = s.phase := rfl
@[simp] theorem advanceInputs_cur : (advanceInputs s).cur = s.cur := rfl
@[simp] theorem advanceInputs_endAddr : (advanceInputs s).endAddr = s.endAddr := rfl
@[simp] theorem advanceInputs_bank : (advanceInputs s).bank = s.bank := rfl
@[simp] theorem advanceInputs_nbanks : (advanceInputs s).nbanks = s.nbanks := rfl
@[simp] theorem advanceInputs_romcode : (advanceInputs s).romcode = s.romcode := rfl
@[simp] theorem advanceInputs_iterEnd : (advanceInputs s).iterEnd = s.iterEnd := rfl
@[simp] theorem advanceInputs_micro : (advanceInputs s).micro = s.micro := rfl
@[simp] theorem advanceInputs_env : (advanceInputs s).env = s.env.advance := rfl
@[simp] theorem advanceInputs_trace : (advanceInputs s).trace = s.trace := rfl
@[simp] theorem advanceInputs_clocks : (advanceInputs s).clocks = s.clocks := rfl

/-! ### offerByte -/

@[simp] theorem offerByte_params (v : Byte) : (offerByte v s).params = s.params := rfl
@[simp] theorem offerByte_mode (v : Byte) : (offerByte v s).mode = s.mode := rfl
@[simp] theorem offerByte_addr (v : Byte) : (offerByte v s).addr = s.addr := rfl
@[simp] theorem offerByte_ddir (v : Byte) : (offerByte v s).ddir = s.ddir := rfl
@[simp] theorem offerByte_dout (v : Byte) : (offerByte v s).dout = s.dout := rfl
@[simp] theorem offerByte_settleCnt (v : Byte) : (offerByte v s).settleCnt = s.settleCnt := rfl
@[simp] theorem offerByte_dstate (v : Byte) : (offerByte v s).dstate = s.dstate := rfl
@[simp] theorem offerByte_cmd (v : Byte) : (offerByte v s).cmd = s.cmd := rfl
@[simp] theorem offerByte_status (v : Byte) : (offerByte v s).status = s.status := rfl
@[simp] theorem offerByte_rsp (v : Byte) : (offerByte v s).rsp = v := rfl
@[simp] theorem offerByte_rspValid (v : Byte) : (offerByte v s).rspValid = true := rfl
@[simp] theorem offerByte_phase (v : Byte) : (offerByte v s).phase = s.phase := rfl
@[simp] theorem offerByte_cur (v : Byte) : (offerByte v s).cur = s.cur := rfl
@[simp] theorem offerByte_endAddr (v : Byte) : (offerByte v s).endAddr = s.endAddr := rfl
@[simp] theorem offerByte_bank (v : Byte) : (offerByte v s).bank = s.bank := rfl
@[simp] theorem offerByte_nbanks (v : Byte) : (offerByte v s).nbanks = s.nbanks := rfl
@[simp] theorem offerByte_romcode (v : Byte) : (offerByte v s).romcode = s.romcode := rfl
@[simp] theorem offerByte_iterEnd (v : Byte) : (offerByte v s).iterEnd = s.iterEnd := rfl
@[simp] theorem offerByte_micro (v : Byte) : (offerByte v s).micro = s.micro := rfl
@[simp] theorem offerByte_env (v : Byte) : (offerByte v s).env = s.env := rfl
@[simp] theorem offerByte_trace (v : Byte) : (offerByte v s).trace = s.trace := rfl
@[simp] theorem offerByte_clocks (v : Byte) : (offerByte v s).clocks = s.clocks := rfl

/-! ### byteTaken -/

@[simp] theorem byteTaken_params : (byteTaken s).params = s.params := rfl
@[simp] theorem byteTaken_mode : (byteTaken s).mode = s.mode := rfl
@[simp] theorem byteTaken_addr : (byteTaken s).addr = s.addr := rfl
@[simp] theorem byteTaken_ddir : (byteTaken s).ddir = s.ddir := rfl
@[simp] theorem byteTaken_dout : (byteTaken s).dout = s.dout := rfl
@[simp] theorem byteTaken_settleCnt : (byteTaken s).settleCnt = s.settleCnt := rfl
@[simp] theorem byteTaken_dstate : (byteTaken s).dstate = s.dstate := rfl
@[simp] theorem byteTaken_cmd : (byteTaken s).cmd = s.cmd := rfl
@[simp] theorem byteTaken_status : (byteTaken s).status = s.status := rfl
@[simp] theorem byteTaken_rsp : (byteTaken s).rsp = s.rsp := rfl
@[simp] theorem byteTaken_rspValid : (byteTaken s).rspValid = false := rfl
@[simp] theorem byteTaken_phase : (byteTaken s).phase = s.phase := rfl
@[simp] theorem byteTaken_cur : (byteTaken s).cur = s.cur := rfl
@[simp] theorem byteTaken_endAddr : (byteTaken s).endAddr = s.endAddr := rfl
@[simp] theorem byteTaken_bank : (byteTaken s).bank = s.bank := rfl
@[simp] theorem byteTaken_nbanks : (byteTaken s).nbanks = s.nbanks := rfl
@[simp] theorem byteTaken_romcode : (byteTaken s).romcode = s.romcode := rfl
@[simp] theorem byteTaken_iterEnd : (byteTaken s).iterEnd = s.iterEnd := rfl
@[simp] theorem byteTaken_micro : (byteTaken s).micro = s.micro := rfl
@[simp] theorem byteTaken_env : (byteTaken s).env = s.env := rfl
@[simp] theorem byteTaken_trace : (byteTaken s).trace = s.trace ++ [.send s.rsp] := rfl
@[simp] theorem byteTaken_clocks : (byteTaken s).clocks = s.clocks + 1 := rfl

/-! ### beginCommand -/

@[simp] theorem beginCommand_params (c : Byte) : (beginCommand c s).params = s.params := rfl
@[simp] theorem beginCommand_mode (c : Byte) : (beginCommand c s).mode = s.mode := rfl
@[simp] theorem beginCommand_addr (c : Byte) : (beginCommand c s).addr = s.addr := rfl
@[simp] theorem beginCommand_ddir (c : Byte) : (beginCommand c s).ddir = s.ddir := rfl
@[simp] theorem beginCommand_dout (c : Byte) : (beginCommand c s).dout = s.dout := rfl
@[simp] theorem beginCommand_settleCnt (c : Byte) : (beginCommand c s).settleCnt = s.settleCnt := rfl
@[simp] theorem beginCommand_dstate (c : Byte) : (beginCommand c s).dstate = .executing := rfl
@[simp] theorem beginCommand_cmd (c : Byte) : (beginCommand c s).cmd = c := rfl
@[simp] theorem beginCommand_status (c : Byte) : (beginCommand c s).status = s.status := rfl
@[simp] theorem beginCommand_rsp (c : Byte) : (beginCommand c s).rsp = s.rsp := rfl
@[simp] theorem beginCommand_rspValid (c : Byte) : (beginCommand c s).rspValid = s.rspValid := rfl
@[simp] theorem beginCommand_phase (c : Byte) : (beginCommand c s).phase = s.phase := rfl
@[simp] theorem beginCommand_cur (c : Byte) : (beginCommand c s).cur = s.cur := rfl
@[simp] theorem beginCommand_endAddr (c : Byte) : (beginCommand c s).endAddr = s.endAddr := rfl
@[simp] theorem beginCommand_bank (c : Byte) : (beginCommand c s).bank = s.bank := rfl
@[simp] theorem beginCommand_nbanks (c : Byte) : (beginCommand c s).nbanks = s.nbanks := rfl
@[simp] theorem beginCommand_romcode (c : Byte) : (beginCommand c s).romcode = s.romcode := rfl
@[simp] theorem beginCommand_iterEnd (c : Byte) : (beginCommand c s).iterEnd = s.iterEnd := rfl
@[simp] theorem beginCommand_micro (c : Byte) : (beginCommand c s).micro = s.micro := rfl
@[simp] theorem beginCommand_env (c : Byte) : (beginCommand c s).env = s.env := rfl
@[simp] theorem beginCommand_trace (c : Byte) : (beginCommand c s).trace = s.trace := rfl
@[simp] theorem beginCommand_clocks (c : Byte) : (beginCommand c s).clocks = s.clocks := rfl

/-! ### statusOn -/

@[simp] theorem statusOn_params : (statusOn s).params = s.params := rfl
@[simp] theorem statusOn_mode : (statusOn s).mode = s.mode := rfl
@[simp] theorem statusOn_addr : (statusOn s).addr = s.addr := rfl
@[simp] theorem statusOn_ddir : (statusOn s).ddir = s.ddir := rfl
@[simp] theorem statusOn_dout : (statusOn s).dout = s.dout := rfl
@[simp] theorem statusOn_settleCnt : (statusOn s).settleCnt = s.settleCnt := rfl
@[simp] theorem statusOn_dstate : (statusOn s).dstate = s.dstate := rfl
@[simp] theorem statusOn_cmd : (statusOn s).cmd = s.cmd := rfl
@[simp] theorem statusOn_status : (statusOn s).status = .blinking := rfl
@[simp] theorem statusOn_rsp : (statusOn s).rsp = s.rsp := rfl
@[simp] theorem statusOn_rspValid : (statusOn s).rspValid = s.rspValid := rfl
@[simp] theorem statusOn_phase : (statusOn s).phase = s.phase := rfl
@[simp] theorem statusOn_cur : (statusOn s).cur = s.cur := rfl
@[simp] theorem statusOn_endAddr : (statusOn s).endAddr = s.endAddr := rfl
@[simp] theorem statusOn_bank : (statusOn s).bank = s.bank := rfl
@[simp] theorem statusOn_nbanks : (statusOn s).nbanks = s.nbanks := rfl
@[simp] theorem statusOn_romcode : (statusOn s).romcode = s.romcode := rfl
@[simp] theorem statusOn_iterEnd : (statusOn s).iterEnd = s.iterEnd := rfl
@[simp] theorem statusOn_micro : (statusOn s).micro = s.micro := rfl
@[simp] theorem statusOn_env : (statusOn s).env = s.env := rfl
@[simp] theorem statusOn_trace : (statusOn s).trace = s.trace ++ [.status .blinking] := rfl
@[simp] theorem statusOn_clocks : (statusOn s).clocks = s.clocks + 1 := rfl

/-! ### endCommand -/

@[simp] theorem endCommand_params : (endCommand s).params = s.params := rfl
@[simp] theorem endCommand_mode : (endCommand s).mode = s.mode := rfl
@[simp] theorem endCommand_addr : (endCommand s).addr = s.addr := rfl
@[simp] theorem endCommand_ddir : (endCommand s).ddir = s.ddir := rfl
@[simp] theorem endCommand_dout : (endCommand s).dout = s.dout := rfl
@[simp] theorem endCommand_settleCnt : (endCommand s).settleCnt = s.settleCnt := rfl
@[simp] theorem endCommand_dstate : (endCommand s).dstate = .idle := rfl
@[simp] theorem endCommand_cmd : (endCommand s).cmd = s.cmd := rfl
@[simp] theorem endCommand_status : (endCommand s).status = .off := rfl
@[simp] theorem endCommand_rsp : (endCommand s).rsp = s.rsp := rfl
@[simp] theorem endCommand_rspValid : (endCommand s).rspValid = s.rspValid := rfl
@[simp] theorem endCommand_phase : (endCommand s).phase = .none := rfl
@[simp] theorem endCommand_cur : (endCommand s).cur = s.cur := rfl
@[simp] theorem endCommand_endAddr : (endCommand s).endAddr = s.endAddr := rfl
@[simp] theorem endCommand_bank : (endCommand s).bank = s.bank := rfl
@[simp] theorem endCommand_nbanks : (endCommand s).nbanks = s.nbanks := rfl
@[simp] theorem endCommand_romcode : (endCommand s).romcode = s.romcode := rfl
@[simp] theorem endCommand_iterEnd : (endCommand s).iterEnd = s.iterEnd := rfl
@[simp] theorem endCommand_micro : (endCommand s).micro = s.micro := rfl
@[simp] theorem endCommand_env : (endCommand s).env = s.env := rfl
@[simp] theorem endCommand_trace : (endCommand s).trace = s.trace ++ bracketEnd s.status := rfl
@[simp] theorem endCommand_clocks : (endCommand s).clocks = s.clocks + (bracketEnd s.status).length := rfl

/-! ### resetRegisters -/

@[simp] theorem resetRegisters_params : (resetRegisters s).params = s.params := rfl
@[simp] theorem resetRegisters_mode : (resetRegisters s).mode = .read := rfl
@[simp] theorem resetRegisters_addr : (resetRegisters s).addr = s.addr := rfl
@[simp] theorem resetRegisters_ddir : (resetRegisters s).ddir = .input := rfl
@[simp] theorem resetRegisters_dout : (resetRegisters s).dout = s.dout := rfl
@[simp] theorem resetRegisters_settleCnt : (resetRegisters s).settleCnt = 0 := rfl
@[simp] theorem resetRegisters_dstate : (resetRegisters s).dstate = .idle := rfl
@[simp] theorem resetRegisters_cmd : (resetRegisters s).cmd = s.cmd := rfl
@[simp] theorem resetRegisters_status : (resetRegisters s).status = .off := rfl
@[simp] theorem resetRegisters_rsp : (resetRegisters s).rsp = s.rsp := rfl
@[simp] theorem resetRegisters_rspValid : (resetRegisters s).rspValid = false := rfl
@[simp] theorem resetRegisters_phase : (resetRegisters s).phase = .none := rfl
@[simp] theorem resetRegisters_cur : (resetRegisters s).cur = s.cur := rfl
@[simp] theorem resetRegisters_endAddr : (resetRegisters s).endAddr = s.endAddr := rfl
@[simp] theorem resetRegisters_bank : (resetRegisters s).bank = s.bank := rfl
@[simp] theorem resetRegisters_nbanks : (resetRegisters s).nbanks = s.nbanks := rfl
@[simp] theorem resetRegisters_romcode : (resetRegisters s).romcode = s.romcode := rfl
@[simp] theorem resetRegisters_iterEnd : (resetRegisters s).iterEnd = s.iterEnd := rfl
@[simp] theorem resetRegisters_micro : (resetRegisters s).micro = .none := rfl
@[simp] theorem resetRegisters_env : (resetRegisters s).env = s.env := rfl
@[simp] theorem resetRegisters_trace : (resetRegisters s).trace = s.trace := rfl
@[simp] theorem resetRegisters_clocks : (resetRegisters s).clocks = s.clocks := rfl

/-! ### loadSettle -/

@[simp] theorem loadSettle_params : (loadSettle s).params = s.params := rfl
@[simp] theorem loadSettle_mode : (loadSettle s).mode = s.mode := rfl
@[simp] theorem loadSettle_addr : (loadSettle s).addr = s.addr := rfl
@[simp] theorem loadSettle_ddir : (loadSettle s).ddir = s.ddir := rfl
@[simp] theorem loadSettle_dout : (loadSettle s).dout = s.dout := rfl
@[simp] theorem loadSettle_settleCnt : (loadSettle s).settleCnt = s.params.settleCycles := rfl
@[simp] theorem loadSettle_dstate : (loadSettle s).dstate = s.dstate := rfl
@[simp] theorem loadSettle_cmd : (loadSettle s).cmd = s.cmd := rfl
@[simp] theorem loadSettle_status : (loadSettle s).status = s.status := rfl
@[simp] theorem loadSettle_rsp : (loadSettle s).rsp = s.rsp := rfl
@[simp] theorem loadSettle_rspValid : (loadSettle s).rspValid = s.rspValid := rfl
@[simp] theorem loadSettle_phase : (loadSettle s).phase = s.phase := rfl
@[simp] theorem loadSettle_cur : (loadSettle s).cur = s.cur := rfl
@[simp] theorem loadSettle_endAddr : (loadSettle s).endAddr = s.endAddr := rfl
@[simp] theorem loadSettle_bank : (loadSettle s).bank = s.bank := rfl
@[simp] theorem loadSettle_nbanks : (loadSettle s).nbanks = s.nbanks := rfl
@[simp] theorem loadSettle_romcode : (loadSettle s).romcode = s.romcode := rfl
@[simp] theorem loadSettle_iterEnd : (loadSettle s).iterEnd = s.iterEnd := rfl
@[simp] theorem loadSettle_micro : (loadSettle s).micro = s.micro := rfl
@[simp] theorem loadSettle_env : (loadSettle s).env = s.env := rfl
@[simp] theorem loadSettle_trace : (loadSettle s).trace = s.trace := rfl
@[simp] theorem loadSettle_clocks : (loadSettle s).clocks = s.clocks := rfl

/-! ### finish -/

@[simp] theorem finish_params (x : IterEnd) : (finish x s).params = s.params := rfl
@[simp] theorem finish_mode (x : IterEnd) : (finish x s).mode = s.mode := rfl
@[simp] theorem finish_addr (x : IterEnd) : (finish x s).addr = s.addr := rfl
@[simp] theorem finish_ddir (x : IterEnd) : (finish x s).ddir = s.ddir := rfl
@[simp] theorem finish_dout (x : IterEnd) : (finish x s).dout = s.dout := rfl
@[simp] theorem finish_settleCnt (x : IterEnd) : (finish x s).settleCnt = s.settleCnt := rfl
@[simp] theorem finish_dstate (x : IterEnd) : (finish x s).dstate = s.dstate := rfl
@[simp] theorem finish_cmd (x : IterEnd) : (finish x s).cmd = s.cmd := rfl
@[simp] theorem finish_status (x : IterEnd) : (finish x s).status = s.status := rfl
@[simp] theorem finish_rsp (x : IterEnd) : (finish x s).rsp = s.rsp := rfl
@[simp] theorem finish_rspValid (x : IterEnd) : (finish x s).rspValid = s.rspValid := rfl
@[simp] theorem finish_phase (x : IterEnd) : (finish x s).phase = .done := rfl
@[simp] theorem finish_cur (x : IterEnd) : (finish x s).cur = s.cur := rfl
@[simp] theorem finish_endAddr (x : IterEnd) : (finish x s).endAddr = s.endAddr := rfl
@[simp] theorem finish_bank (x : IterEnd) : (finish x s).bank = s.bank := rfl
@[simp] theorem finish_nbanks (x : IterEnd) : (finish x s).nbanks = s.nbanks := rfl
@[simp] theorem finish_romcode (x : IterEnd) : (finish x s).romcode = s.romcode := rfl
@[simp] theorem finish_iterEnd (x : IterEnd) : (finish x s).iterEnd = x := rfl
@[simp] theorem finish_micro (x : IterEnd) : (finish x s).micro = s.micro := rfl
@[simp] theorem finish_env (x : IterEnd) : (finish x s).env = s.env := rfl
@[simp] theorem finish_trace (x : IterEnd) : (finish x s).trace = s.trace := rfl
@[simp] theorem finish_clocks (x : IterEnd) : (finish x s).clocks = s.clocks := rfl

/-! ### takeByte -/

@[simp] theorem takeByte_params (c : Byte) : (takeByte c s).params = s.params := rfl
@[simp] theorem takeByte_mode (c : Byte) : (takeByte c s).mode = s.mode := rfl
@[simp] theorem takeByte_addr (c : Byte) : (takeByte c s).addr = s.addr := rfl
@[simp] theorem takeByte_ddir (c : Byte) : (takeByte c s).ddir = s.ddir := rfl
@[simp] theorem takeByte_dout (c : Byte) : (takeByte c s).dout = s.dout := rfl
@[simp] theorem takeByte_settleCnt (c : Byte) : (takeByte c s).settleCnt = s.settleCnt := rfl
@[simp] theorem takeByte_dstate (c : Byte) : (takeByte c s).dstate = s.dstate := rfl
@[simp] theorem takeByte_cmd (c : Byte) : (takeByte c s).cmd = s.cmd := rfl
@[simp] theorem takeByte_status (c : Byte) : (takeByte c s).status = s.status := rfl
@[simp] theorem takeByte_rsp (c : Byte) : (takeByte c s).rsp = s.rsp := rfl
@[simp] theorem takeByte_rspValid (c : Byte) : (takeByte c s).rspValid = s.rspValid := rfl
@[simp] theorem takeByte_phase (c : Byte) : (takeByte c s).phase = s.phase := rfl
@[simp] theorem takeByte_cur (c : Byte) : (takeByte c s).cur = s.cur := rfl
@[simp] theorem takeByte_endAddr (c : Byte) : (takeByte c s).endAddr = s.endAddr := rfl
@[simp] theorem takeByte_bank (c : Byte) : (takeByte c s).bank = s.bank := rfl
@[simp] theorem takeByte_nbanks (c : Byte) : (takeByte c s).nbanks = s.nbanks := rfl
@[simp] theorem takeByte_romcode (c : Byte) : (takeByte c s).romcode = s.romcode := rfl
@[simp] theorem takeByte_iterEnd (c : Byte) : (takeByte c s).iterEnd = s.iterEnd := rfl
@[simp] theorem takeByte_micro (c : Byte) : (takeByte c s).micro = s.micro := rfl
@[simp] theorem takeByte_env (c : Byte) : (takeByte c s).env = { s.env with rx := s.env.rx.tail } := rfl
@[simp] theorem takeByte_trace (c : Byte) : (takeByte c s).trace = s.trace ++ [.accept c] := rfl
@[simp] theorem takeByte_clocks (c : Byte) : (takeByte c s).clocks = s.clocks + 1 := rfl

/-! ### The parameters -/

/-- The least of any time and the time of the settle wait is at most the latter. -/
theorem min_settle_le (x c f : Nat) : min x (nsPerSecond * c / f) * f ≤ nsPerSecond * c :=
  Nat.le_trans (Nat.mul_le_mul_right f (Nat.min_le_right _ _)) (Nat.div_mul_le_self _ _)

/-- The parameters of the block as built meet R9, whatever the free values are. -/
theorem params_admissible : Config.params.admissible := by
  unfold Params.admissible
  simp only [Config.params]
  exact ⟨Nat.succ_le_succ (Nat.zero_le _), min_settle_le _ _ _⟩

/-! ### Env.advance -/

@[simp] theorem advance_rx (e : Env) : e.advance.rx = e.rx := by
  unfold Env.advance; split <;> rfl

@[simp] theorem advance_cart (e : Env) : e.advance.cart = e.cart := by
  unfold Env.advance; split <;> rfl

@[simp] theorem advance_draws (e : Env) : e.advance.draws = e.draws := by
  unfold Env.advance; split <;> rfl

/-- Where no later levels are scheduled, the environment stays as it is. -/
theorem advance_of_upcoming_nil (e : Env) (h : e.upcoming = []) : e.advance = e := by
  simp [Env.advance, h]

/-- An attended environment stays as it is. -/
theorem advanceInputs_attended (h : s.attended) : advanceInputs s = s := by
  simp [advanceInputs, advance_of_upcoming_nil _ h.2]

end Sys2Proof.Machine
end

