-- ==== Sys2Proof/Laws/Step.lean ====
section
/-! SUPPORT. What a step can do, once: the kind of edge, the meanings, and the sequencer's edges. -/

namespace Sys2Proof.Machine

variable {s t : State}

/-! ### Each kind of edge -/

theorem step_reset (h : s.env.pins.rst = true) : step s = .next (resetEdge (advanceInputs s)) := by
  simp [step, edgeOf, h]

theorem step_take {c : Byte} (hr : s.env.pins.rst = false) (hd : s.dstate = .idle)
    (ho : s.env.offered = some c) :
    step s = exec (decodeByte c) (takeByte c (advanceInputs s)) := by
  simp [step, edgeOf, hr, hd, ho]

theorem step_poll (hr : s.env.pins.rst = false) (hd : s.dstate = .idle) (ho : s.env.offered = none) :
    step s = .next (wait (advanceInputs s)) := by
  simp [step, edgeOf, hr, hd, ho]

theorem step_waitRsp (hr : s.env.pins.rst = false) (hd : s.dstate = .executing)
    (hv : s.rspValid = true) (hp : s.env.pins.rspReady = false) :
    step s = .next (wait (advanceInputs s)) := by
  simp [step, edgeOf, hr, hd, hv, hp]

theorem step_sendRsp (hr : s.env.pins.rst = false) (hd : s.dstate = .executing)
    (hv : s.rspValid = true) (hp : s.env.pins.rspReady = true) :
    step s = .next (byteTaken (advanceInputs s)) := by
  simp [step, edgeOf, hr, hd, hv, hp]

theorem step_run (hr : s.env.pins.rst = false) (hd : s.dstate = .executing)
    (hv : s.rspValid = false) : step s = runEdge (advanceInputs s) := by
  simp [step, edgeOf, hr, hd, hv]

/-- The edge a state takes, and why. -/
theorem edgeOf_cases (s : State) :
    (edgeOf s = .reset ∧ s.env.pins.rst = true) ∨
    (s.env.pins.rst = false ∧ s.dstate = .idle ∧
      ((∃ c, edgeOf s = .take c ∧ s.env.offered = some c) ∨
        (edgeOf s = .poll ∧ s.env.offered = none))) ∨
    (s.env.pins.rst = false ∧ s.dstate = .executing ∧
      ((edgeOf s = .sendRsp ∧ s.rspValid = true ∧ s.env.pins.rspReady = true) ∨
        (edgeOf s = .waitRsp ∧ s.rspValid = true ∧ s.env.pins.rspReady = false) ∨
        (edgeOf s = .run ∧ s.rspValid = false))) := by
  unfold edgeOf
  cases hr : s.env.pins.rst <;> cases hd : s.dstate <;> cases ho : s.env.offered <;>
    cases hv : s.rspValid <;> cases hp : s.env.pins.rspReady <;> simp

/-- A transport that offers a byte holds it as its first. -/
theorem offered_some {e : Env} {c : Byte} (h : e.offered = some c) :
    e.pins.offer = true ∧ ∃ rest, e.rx = c :: rest := by
  unfold Env.offered at h
  split at h
  · refine ⟨‹_›, ?_⟩
    cases hx : e.rx with
    | nil => simp [hx] at h
    | cons a rest => simp [hx] at h; exact ⟨rest, by rw [h]⟩
  · cases h

/-! ### The meanings -/

@[simp] theorem exec_probe (s : State) :
    exec .probe s = .next (offerByte probeValue (beginCommand 0x01#8 s)) := rfl
@[simp] theorem exec_rdtype (s : State) :
    exec .rdtype s = .next (initSingle cartTypeAddr (beginCommand 0x02#8 s)) := rfl
@[simp] theorem exec_rdromsz (s : State) :
    exec .rdromsz s = .next (initSingle romSizeAddr (beginCommand 0x03#8 s)) := rfl
@[simp] theorem exec_rdgbc (s : State) :
    exec .rdgbc s = .next (initSingle gbcFlagAddr (beginCommand 0x04#8 s)) := rfl
@[simp] theorem exec_rdtitle (s : State) :
    exec .rdtitle s = .next (initRange titleFirst titleLast (statusOn (beginCommand 0x05#8 s))) := rfl
@[simp] theorem exec_rdlogo (s : State) :
    exec .rdlogo s = .next (initRange logoFirst logoLast (statusOn (beginCommand 0x06#8 s))) := rfl
@[simp] theorem exec_dump (s : State) :
    exec .dump s = .next (initBanked (statusOn (beginCommand 0x07#8 s))) := rfl
@[simp] theorem exec_rdcksum (s : State) :
    exec .rdcksum s =
      .next (initRange checksumFirst checksumLast (statusOn (beginCommand 0x08#8 s))) := rfl
@[simp] theorem exec_ignored (b : Byte) (s : State) : exec (.ignored b) s = .next s := rfl

/-! ### The sequencer's edges -/

/-- What the start of a MemRead can do (R103, R104). -/
theorem beginRead_next (h : beginRead s = .next t) :
    s.mode = .read ∧ t = driveDir .input .readAddr s := by
  unfold beginRead at h
  split at h
  · cases h; exact ⟨‹_›, rfl⟩
  · cases h

/-- What the start of a selectBank can do (R131). -/
theorem beginSelect_next (h : beginSelect s = .next t) :
    s.mode = .read ∧ t = driveDir .output .writeAddr s := by
  unfold beginSelect at h
  split at h
  · cases h; exact ⟨‹_›, rfl⟩
  · cases h

/-- What an edge of a settle wait can do (R107). -/
theorem settleEdge_cases (m : Micro) (s : State) :
    (s.settleCnt ≤ 1 ∧ settleEdge m s = emit .settle { s with settleCnt := 0, micro := m }) ∨
    (1 < s.settleCnt ∧ settleEdge m s = wait { s with settleCnt := s.settleCnt - 1 }) := by
  unfold settleEdge
  split
  · exact .inl ⟨‹_›, rfl⟩
  · exact .inr ⟨by omega, rfl⟩

/-- What `Next()` can do between two primitives (R151, R152, R153). -/
theorem nextEdge_next (h : nextEdge s = .next t) :
    (atRead s = true ∧ s.mode = .read ∧ t = driveDir .input .readAddr s) ∨
    (s.phase = .select ∧ s.mode = .read ∧ t = driveDir .output .writeAddr s) ∨
    ((s.phase = .none ∧ s.cmd = 0x01#8 ∨ s.phase = .done) ∧ t = endCommand s) ∨
    (s.phase = .base ∧ rangeLeft s = false ∧ t = { s with phase := .romSize }) ∨
    (s.phase = .bankWin ∧ rangeLeft s = false ∧ s.bank < s.nbanks ∧
      t = { s with bank := s.bank + 1#9, phase := .select }) ∨
    ((s.phase = .range ∨ s.phase = .bankWin ∧ ¬ s.bank < s.nbanks) ∧ rangeLeft s = false ∧
      t = finish .ended s) := by
  unfold nextEdge at h
  cases hp : s.phase with
  | none =>
    simp only [hp] at h
    split at h
    · cases h; exact .inr (.inr (.inl ⟨.inl ⟨rfl, ‹_›⟩, rfl⟩))
    · cases h
  | single =>
    simp only [hp] at h
    obtain ⟨hm, rfl⟩ := beginRead_next h
    exact .inl ⟨by simp [atRead, hp], hm, rfl⟩
  | romSize =>
    simp only [hp] at h
    obtain ⟨hm, rfl⟩ := beginRead_next h
    exact .inl ⟨by simp [atRead, hp], hm, rfl⟩
  | range =>
    simp only [hp] at h
    split at h
    · obtain ⟨hm, rfl⟩ := beginRead_next h
      exact .inl ⟨by simp [atRead, *], hm, rfl⟩
    · cases h; simp [*]
  | base =>
    simp only [hp] at h
    split at h
    · obtain ⟨hm, rfl⟩ := beginRead_next h
      exact .inl ⟨by simp [atRead, *], hm, rfl⟩
    · cases h; simp [*]
  | bankWin =>
    simp only [hp] at h
    split at h
    · obtain ⟨hm, rfl⟩ := beginRead_next h
      exact .inl ⟨by simp [atRead, *], hm, rfl⟩
    · split at h <;> cases h <;> simp [*]
  | select =>
    simp only [hp] at h
    exact .inr (.inl ⟨rfl, beginSelect_next h⟩)
  | done =>
    simp only [hp] at h
    split at h <;> cases h <;> simp [abortCommand]

/-- What the sample step can do (R151 to R154). -/
theorem sampleEdge_next (h : sampleEdge s = .next t) :
    (s.phase = .single ∧ t = offerByte (sampledByte s) (finish .ended (sampleBus s))) ∨
    ((s.phase = .range ∨ s.phase = .base ∨ s.phase = .bankWin) ∧
      t = returnNext (sampledByte s) (sampleBus s)) ∨
    (s.phase = .romSize ∧ t = resolveBanks (sampledByte s) (sampleBus s)) := by
  unfold sampleEdge at h
  split at h <;> cases h <;> simp [*]

/-- What resolving the ROM-size code can do (R153 `RomSize`, R155). -/
theorem resolveBanks_cases (code : Byte) (s : State) :
    (∃ n, bankCount code = some n ∧
      resolveBanks code s = { s with romcode := code, nbanks := n, bank := 1#9, phase := .select }) ∨
    (bankCount code = none ∧ resolveBanks code s = finish .aborted { s with romcode := code }) := by
  unfold resolveBanks
  cases h : bankCount code with
  | none => exact .inr ⟨rfl, rfl⟩
  | some n => exact .inl ⟨n, rfl, rfl⟩

/-- What an Execute step can do, by the sequencer's position (R33). -/
theorem runEdge_next (h : runEdge s = .next t) :
    (s.micro = .none ∧ nextEdge s = .next t) ∨
    (s.micro = .readAddr ∧ t = driveAddr (readOperand s) .readSettle s) ∨
    (s.micro = .readSettle ∧ t = settleEdge .readSample s) ∨
    (s.micro = .readSample ∧ sampleEdge s = .next t) ∨
    (s.micro = .writeAddr ∧ t = driveAddr bankSelectAddr .writeSettle s) ∨
    (s.micro = .writeSettle ∧ t = settleEdge .writeDrive s) ∨
    (s.micro = .writeDrive ∧ t = driveData (writeOperand s) .pulseWrite s) ∨
    (s.micro = .pulseWrite ∧ t = selectPulse s) ∨
    (s.micro = .pulseSettle ∧ t = settleEdge .pulseRead s) ∨
    (s.micro = .pulseRead ∧ t = selectEnd s) := by
  unfold runEdge at h
  cases hm : s.micro <;> simp only [hm] at h <;> simp_all [selectAddr, selectData]

/-- What a step can do, by the kind of edge. -/
theorem step_next (h : step s = .next t) :
    (s.env.pins.rst = true ∧ t = resetEdge (advanceInputs s)) ∨
    (s.env.pins.rst = false ∧ s.dstate = .idle ∧
      ((∃ c, s.env.offered = some c ∧ exec (decodeByte c) (takeByte c (advanceInputs s)) = .next t) ∨
        (s.env.offered = none ∧ t = wait (advanceInputs s)))) ∨
    (s.env.pins.rst = false ∧ s.dstate = .executing ∧
      ((s.rspValid = true ∧ s.env.pins.rspReady = true ∧ t = byteTaken (advanceInputs s)) ∨
        (s.rspValid = true ∧ s.env.pins.rspReady = false ∧ t = wait (advanceInputs s)) ∨
        (s.rspValid = false ∧ runEdge (advanceInputs s) = .next t))) := by
  rcases edgeOf_cases s with ⟨he, hr⟩ | ⟨hr, hd, ⟨c, he, ho⟩ | ⟨he, ho⟩⟩ |
      ⟨hr, hd, ⟨he, hv, hp⟩ | ⟨he, hv, hp⟩ | ⟨he, hv⟩⟩ <;>
    simp only [step, he] at h
  · cases h; exact .inl ⟨hr, rfl⟩
  · exact .inr (.inl ⟨hr, hd, .inl ⟨c, ho, h⟩⟩)
  · cases h; exact .inr (.inl ⟨hr, hd, .inr ⟨ho, rfl⟩⟩)
  · cases h; exact .inr (.inr ⟨hr, hd, .inl ⟨hv, hp, rfl⟩⟩)
  · cases h; exact .inr (.inr ⟨hr, hd, .inr (.inl ⟨hv, hp, rfl⟩)⟩)
  · exact .inr (.inr ⟨hr, hd, .inr (.inr ⟨hv, h⟩)⟩)

/-! ### Runs -/

@[simp] theorem runSteps_zero (s : State) : runSteps 0 s = .next s := rfl

theorem runSteps_succ (k : Nat) (h : step s = .next t) : runSteps (k + 1) s = runSteps k t := by
  simp [runSteps, h]

/-- Runs compose. -/
theorem runSteps_add {u : State} (j k : Nat) (h : runSteps j s = .next t)
    (h' : runSteps k t = .next u) : runSteps (j + k) s = .next u := by
  induction j generalizing s with
  | zero => cases h; simpa using h'
  | succ j ih =>
    rw [Nat.succ_add]
    simp only [runSteps] at h ⊢
    cases hs : step s with
    | next v => simp only [hs] at h; exact ih h
    | fault r => simp [hs] at h
    | refused r => simp [hs] at h

/-- A run is a run of the machine behind Host/Core.lean. -/
theorem runSteps_core (k : Nat) (s : State) : Host.Core.run Sys2Proof.core k s = runSteps k s := by
  induction k generalizing s with
  | zero => rfl
  | succ k ih =>
    have hc : Sys2Proof.core.step s = step s := rfl
    simp only [Host.Core.run, runSteps, hc]
    cases step s with
    | next t => exact ih t
    | fault r => rfl
    | refused r => rfl

end Sys2Proof.Machine
end

