-- ==== Sys2Proof/Laws/Views.lean ====
section
/-! SUPPORT. The derived views of a state, over the updates that leave them alone, and the steps of an
attended block. -/

namespace Sys2Proof.Machine

variable (s : State)

/-! ### Views over the updates that change only the trace, the clocks and the environment -/

@[simp] theorem readOperand_emit (e : Event) : readOperand (emit e s) = readOperand s := rfl
@[simp] theorem readOperand_emitAll (es : List Event) :
    readOperand (emitAll es s) = readOperand s := rfl
@[simp] theorem readOperand_wait : readOperand (wait s) = readOperand s := rfl
@[simp] theorem readOperand_advanceInputs : readOperand (advanceInputs s) = readOperand s := rfl

@[simp] theorem writeOperand_emit (e : Event) : writeOperand (emit e s) = writeOperand s := rfl
@[simp] theorem writeOperand_emitAll (es : List Event) :
    writeOperand (emitAll es s) = writeOperand s := rfl
@[simp] theorem writeOperand_wait : writeOperand (wait s) = writeOperand s := rfl
@[simp] theorem writeOperand_advanceInputs : writeOperand (advanceInputs s) = writeOperand s := rfl

@[simp] theorem rangeLeft_emit (e : Event) : rangeLeft (emit e s) = rangeLeft s := rfl
@[simp] theorem rangeLeft_emitAll (es : List Event) : rangeLeft (emitAll es s) = rangeLeft s := rfl
@[simp] theorem rangeLeft_wait : rangeLeft (wait s) = rangeLeft s := rfl
@[simp] theorem rangeLeft_advanceInputs : rangeLeft (advanceInputs s) = rangeLeft s := rfl

@[simp] theorem atRead_emit (e : Event) : atRead (emit e s) = atRead s := rfl
@[simp] theorem atRead_emitAll (es : List Event) : atRead (emitAll es s) = atRead s := rfl
@[simp] theorem atRead_wait : atRead (wait s) = atRead s := rfl
@[simp] theorem atRead_advanceInputs : atRead (advanceInputs s) = atRead s := rfl

@[simp] theorem sampledByte_advanceInputs : sampledByte (advanceInputs s) = sampledByte s := by
  simp [sampledByte, Env.busByte]

/-! ### The sampled byte -/

/-- The byte a sample sees is that of the trace's own description of it (R26). -/
theorem busByte_eq_byteAt (e : Env) (a : Word16) :
    e.busByte a = byteAt e.cart.cells e.cart.bankReg e.draws a := rfl

/-- A location whose byte is known is sampled as that byte, whatever was drawn before. -/
theorem busByte_known {e : Env} {a : Word16} {v : Byte} (h : e.cart.knownByte a = some v) :
    e.busByte a = v := by
  simp [Env.busByte, h]

/-! ### The cartridge's side of a mode change -/

/-- What a mode change can do to the cartridge (log 5): nothing, or its bank register takes the data. -/
theorem onMode_cases (c : Cart) (m : Mode) (a : Word16) (d : Dir) (v : Byte) :
    (m = .write ∧ d = .output ∧ a = bankSelectAddr ∧ c.onMode m a d v = { c with bankReg := v }) ∨
    c.onMode m a d v = c := by
  unfold Cart.onMode
  cases m <;> cases d <;> simp
  by_cases h : a = bankSelectAddr <;> simp [h]

@[simp] theorem onMode_cells (c : Cart) (m : Mode) (a : Word16) (d : Dir) (v : Byte) :
    (c.onMode m a d v).cells = c.cells := by
  rcases onMode_cases c m a d v with ⟨_, _, _, h⟩ | h <;> rw [h]

/-! ### An attended block -/

variable {s} {t : State}

/-- A command byte on offer to an idle, attended block is taken (R180). -/
theorem step_attended_take {c : Byte} (ha : s.attended) (hd : s.dstate = .idle)
    (hc : s.env.rx.head? = some c) : step s = exec (decodeByte c) (takeByte c s) := by
  rw [step_take (c := c) (by rw [ha.1]) hd (by simp [Env.offered, ha.1, hc]), advanceInputs_attended s ha]

/-- An attended block that executes with no byte waiting takes the sequencer's edge. -/
theorem step_attended_run (ha : s.attended) (hd : s.dstate = .executing) (hv : s.rspValid = false) :
    step s = runEdge s := by
  rw [step_run (by rw [ha.1]) hd hv, advanceInputs_attended s ha]

/-- An attended block sends a waiting byte at once (R182). -/
theorem step_attended_send (ha : s.attended) (hd : s.dstate = .executing) (hv : s.rspValid = true) :
    step s = .next (byteTaken s) := by
  rw [step_sendRsp (by rw [ha.1]) hd hv (by rw [ha.1]), advanceInputs_attended s ha]

/-- Reaching a state composes. -/
theorem Reaches.trans {u : State} (h : Reaches s t) (h' : Reaches t u) : Reaches s u := by
  obtain ⟨j, hj⟩ := h
  obtain ⟨k, hk⟩ := h'
  exact ⟨j + k, runSteps_add j k hj hk⟩

/-- One step reaches its next state. -/
theorem Reaches.of_step (h : step s = .next t) : Reaches s t :=
  ⟨1, by rw [runSteps_succ 0 h]; rfl⟩

/-! ### The input schedule -/

@[simp] theorem advanceBy_zero (e : Env) : e.advanceBy 0 = e := rfl
@[simp] theorem advanceBy_succ (k : Nat) (e : Env) :
    e.advanceBy (k + 1) = e.advance.advanceBy k := rfl

/-- The last of some edges of a schedule is one more edge. -/
theorem advance_advanceBy (k : Nat) (e : Env) : (e.advanceBy k).advance = e.advanceBy (k + 1) := by
  induction k generalizing e with
  | zero => rfl
  | succ k ih => exact ih e.advance

@[simp] theorem advanceBy_rx (k : Nat) (e : Env) : (e.advanceBy k).rx = e.rx := by
  induction k generalizing e with
  | zero => rfl
  | succ k ih => simp [ih]

@[simp] theorem advanceBy_cart (k : Nat) (e : Env) : (e.advanceBy k).cart = e.cart := by
  induction k generalizing e with
  | zero => rfl
  | succ k ih => simp [ih]

@[simp] theorem advanceBy_draws (k : Nat) (e : Env) : (e.advanceBy k).draws = e.draws := by
  induction k generalizing e with
  | zero => rfl
  | succ k ih => simp [ih]

/-! ### The reads of consecutive addresses -/

@[simp] theorem readsOf_nil (a : Word16) : readsOf a [] = [] := rfl
@[simp] theorem readsOf_cons (a : Word16) (v : Byte) (rest : List Byte) :
    readsOf a (v :: rest) = sentEvents a v ++ readsOf (a + 1#16) rest := rfl

/-- One more read after some is at the next address. -/
theorem readsOf_concat (v : Byte) (bytes : List Byte) (a : Word16) :
    readsOf a (bytes ++ [v]) =
      readsOf a bytes ++ sentEvents (a + BitVec.ofNat 16 bytes.length) v := by
  induction bytes generalizing a with
  | nil => simp
  | cons x rest ih =>
    have h : a + 1#16 + BitVec.ofNat 16 rest.length = a + BitVec.ofNat 16 (rest.length + 1) := by
      rw [BitVec.add_assoc, Nat.add_comm, BitVec.ofNat_add]
    simp [ih, h]

/-- The reads that sample what the cartridge shows are those of its bytes. -/
theorem rangeEvents_eq_readsOf (cells : Memory) (b : Byte) (d : Nat) (first : Word16) (n : Nat) :
    rangeEvents cells b d first n = readsOf first (rangeBytes cells b d first n) := by
  unfold rangeEvents rangeBytes
  induction n with
  | zero => rfl
  | succ n ih =>
    rw [List.range_succ, List.flatMap_append, List.map_append, ih, List.map_singleton, readsOf_concat]
    simp

/-! ### The response stream -/

/-- The response bytes of two traces in a row. -/
theorem responseBytes_append (t u : List Event) :
    responseBytes (t ++ u) = responseBytes t ++ responseBytes u := by
  induction t with
  | nil => rfl
  | cons e rest ih => cases e <;> simp [responseBytes, ih]

end Sys2Proof.Machine
end

