-- ==== Sys2Proof/Tests/Slice0.lean ====
section
/-! SUPPORT. Tests: the command words, small vectors of spec/95_test_vectors.md one step at a time, and for
every statement with hypotheses a concrete state that meets them. -/

namespace Sys2Proof.Tests

open Sys2Proof.Machine

/-! ### Well-formed instructions (R73) -/

theorem test_illformed_probe_code : (Instr.ignored 0x01#8).wellFormed = false := by decide
theorem test_illformed_rdcksum_code : (Instr.ignored 0x08#8).wellFormed = false := by decide
theorem test_illformed_dump_code : (Instr.ignored 0x07#8).wellFormed = false := by decide
theorem test_wellformed_ignored :
    (Instr.ignored 0x00#8).wellFormed = true ∧ (Instr.ignored 0x09#8).wellFormed = true ∧
      (Instr.ignored 0xFF#8).wellFormed = true := by decide

/-! ### Decoding: the words of the command map (R72), in binary -/

theorem test_decode_probe : decodeTableWord 8 0b00000001 = some .probe := by decide
theorem test_decode_rdtype : decodeTableWord 8 0b00000010 = some .rdtype := by decide
theorem test_decode_rdromsz : decodeTableWord 8 0b00000011 = some .rdromsz := by decide
theorem test_decode_rdgbc : decodeTableWord 8 0b00000100 = some .rdgbc := by decide
theorem test_decode_rdtitle : decodeTableWord 8 0b00000101 = some .rdtitle := by decide
theorem test_decode_rdlogo : decodeTableWord 8 0b00000110 = some .rdlogo := by decide
theorem test_decode_dump : decodeTableWord 8 0b00000111 = some .dump := by decide
theorem test_decode_rdcksum : decodeTableWord 8 0b00001000 = some .rdcksum := by decide
theorem test_decode_ignored :
    [0b00000000, 0b00001001, 0b10000001, 0b10100000, 0b11111111].map (decodeTableWord 8) =
      [some (.ignored 0x00#8), some (.ignored 0x09#8), some (.ignored 0x81#8),
        some (.ignored 0xA0#8), some (.ignored 0xFF#8)] := by decide
theorem test_decode_nothing : decode [] = .error .noByte := rfl

/-- The bytes of program P1 (95_test_vectors.md §3). -/
theorem test_encode_p1 :
    [Instr.probe, .rdromsz, .ignored 0x09#8, .rdcksum].flatMap encode =
      [0x01#8, 0x03#8, 0x09#8, 0x08#8] := by decide

/-! ### States to test with -/

/-- Two clocks of settle wait at 20 kHz: exactly the 100 µs asked for. -/
def benchParams : Params where
  fClkHz := 20000
  tSettleMinNs := 100000
  settleCycles := 2
  strobeActiveLow := true

theorem bench_admissible : benchParams.admissible := by
  unfold Params.admissible nsPerSecond
  decide

/-- The block at rest, with marks in the registers reset leaves unspecified. -/
def bench : State :=
  { State.reset with params := benchParams, addr := 0x1234#16, dout := 0x5A#8, cmd := 0xEE#8 }

/-- The block at rest before a transport that holds `rx`, on a cartridge of which `cells` are known. -/
def serving (rx : List Byte) (cells : Memory) : State :=
  { bench with env := { Env.powerUp with rx := rx, cart := { cells := cells, bankReg := 0x01#8 } } }

/-- A cartridge with ROM-size code `c`, other header bytes of the fixture cartridge
(95_test_vectors.md §0). -/
def header (c : Byte) : Memory :=
  [(0x0143, 0x80#8), (0x0147, 0x01#8), (0x0148, c), (0x014E, 0x12#8), (0x014F, 0x34#8)]

/-- RDROMSZ at the position `m` of its read. -/
def singleAt (m : Micro) : State :=
  { serving [] (header 0x03#8) with
    dstate := .executing, cmd := 0x03#8, phase := .single, cur := 0x0148#17, micro := m }

/-- DUMP at its ROM-size read, on a cartridge with code `c`. -/
def romSizeAt (c : Byte) (m : Micro) : State :=
  { serving [0x02#8] (header c) with
    dstate := .executing, cmd := 0x07#8, status := .blinking, phase := .romSize, cur := 0x4000#17
    endAddr := 0x3FFF#16, micro := m, addr := 0x0148#16 }

/-- DUMP of a two-bank cartridge at the position `m` of the selection of bank 1. -/
def selectAt (m : Micro) : State :=
  { serving [] (header 0x00#8) with
    dstate := .executing, cmd := 0x07#8, status := .blinking, phase := .select, bank := 1#9
    nbanks := 2#9, romcode := 0x00#8, micro := m, ddir := .output, addr := 0x2000#16 }

/-- DUMP of a two-bank cartridge after the last byte of the window of bank `b`. -/
def windowDone (b : BankNo) : State :=
  { selectAt .none with phase := .bankWin, cur := 0x8000#17, endAddr := 0x7FFF#16, bank := b }

/-- A DUMP whose iterator has ended with abort. -/
def aborted : State :=
  { romSizeAt 0x55#8 .none with phase := .done, iterEnd := .aborted, romcode := 0x55#8 }

/-- PROBE with its byte in RSP. -/
def probing : State :=
  { serving [0x02#8] [] with
    dstate := .executing, cmd := 0x01#8, rsp := 0xA0#8, rspValid := true }

/-- The checks of a legal state, all but the first on plain data. -/
theorem legal_of {s : State} (hp : s.params = benchParams)
    (h : Memory.wf s.env.cart.cells = true ∧ (s.mode = .write ↔ inPulse s.micro = true) ∧
      (s.dstate = .idle →
        s.phase = .none ∧ s.micro = .none ∧ s.rspValid = false ∧ s.status = .off) ∧
      (s.dstate = .executing → isCommandByte s.cmd = true ∧ phaseFits s.cmd s.phase = true) ∧
      (s.dstate = .executing → (s.status = .blinking ↔ 0x05#8 ≤ s.cmd)) ∧
      iteratorFits s = true ∧ positionFits s = true ∧
      (s.rspValid = true →
        s.micro = .none ∧ s.phase ≠ .single ∧ s.phase ≠ .romSize ∧ s.phase ≠ .select) ∧
      (s.settleCnt ≤ s.params.settleCycles ∧ (settling s.micro = false → s.settleCnt = 0)) ∧
      (s.phase = .bankWin ∨ inPulse s.micro = true → s.env.cart.bankReg = trunc8 s.bank)) :
    s.Legal := by
  obtain ⟨h1, h2, h3, h4, h5, h6, h7, h8, h9, h10⟩ := h
  exact ⟨by rw [hp]; exact bench_admissible, h1, h2, h3, h4, h5, h6, h7, h8, h9, h10⟩

theorem legal_serving_nothing : (serving [] []).Legal := legal_of rfl (by decide)
theorem legal_singleAt : (singleAt .none).Legal := legal_of rfl (by decide)
theorem legal_romSizeAt : (romSizeAt 0x00#8 .readSample).Legal := by
  refine legal_of rfl ?_; decide
theorem legal_selectAt : (selectAt .none).Legal := legal_of rfl (by decide)
theorem legal_windowDone : (windowDone 1#9).Legal := legal_of rfl (by decide)
theorem legal_probing : probing.Legal := legal_of rfl (by decide)

/-- The state a step answers. -/
def nextOf : Host.Outcome State Fault Refusal → Option State
  | .next t => some t
  | .fault _ => none
  | .refused _ => none

/-- One view of the state after one step from `s`. -/
def afterStep {α : Type} (view : State → α) (s : State) : Option α := (nextOf (step s)).map view

/-! ### The first edge of each instruction (R185 to R193) -/

theorem test_probe_starts :
    afterStep (fun t => (t.rsp, t.rspValid, t.dstate, t.trace)) (serving [0x01#8] []) =
      some (0xA0#8, true, .executing, [.accept 0x01#8]) := by decide
theorem test_rdtype_starts :
    afterStep (fun t => (t.phase, t.cur, t.trace)) (serving [0x02#8] []) =
      some (.single, 0x0147#17, [.accept 0x02#8]) := by decide
theorem test_rdromsz_starts :
    afterStep (fun t => (t.phase, t.cur, t.trace)) (serving [0x03#8] []) =
      some (.single, 0x0148#17, [.accept 0x03#8]) := by decide
theorem test_rdgbc_starts :
    afterStep (fun t => (t.phase, t.cur, t.trace)) (serving [0x04#8] []) =
      some (.single, 0x0143#17, [.accept 0x04#8]) := by decide
theorem test_rdtitle_starts :
    afterStep (fun t => (t.cur, t.endAddr, t.trace)) (serving [0x05#8] []) =
      some (0x0134#17, 0x0143#16, [.accept 0x05#8, .status .blinking]) := by decide
theorem test_rdlogo_starts :
    afterStep (fun t => (t.cur, t.endAddr, t.trace)) (serving [0x06#8] []) =
      some (0x0104#17, 0x0133#16, [.accept 0x06#8, .status .blinking]) := by decide
theorem test_dump_starts :
    afterStep (fun t => (t.phase, t.cur, t.endAddr, t.trace)) (serving [0x07#8] []) =
      some (.base, 0x0000#17, 0x3FFF#16, [.accept 0x07#8, .status .blinking]) := by decide
theorem test_rdcksum_starts :
    afterStep (fun t => (t.cur, t.endAddr, t.trace)) (serving [0x08#8] []) =
      some (0x014E#17, 0x014F#16, [.accept 0x08#8, .status .blinking]) := by decide
theorem test_ignored_consumed :
    afterStep (fun t => (t.dstate, t.cmd, t.env.rx, t.trace)) (serving [0x09#8, 0x01#8] []) =
      some (.idle, 0xEE#8, [0x01#8], [.accept 0x09#8]) := by decide
theorem test_fetch_word :
    afterStep (fun t => (t.cmd, t.cur)) (State.reset.withFetchWord 8 4) =
      some (0x04#8, 0x0143#17) := by decide

/-! ### The bus primitives, one step at a time (95_test_vectors.md §2.1 to §2.6) -/

theorem test_read_direction :
    afterStep (fun t => (t.ddir, t.micro, t.trace)) { singleAt .none with ddir := .output } =
      some (.input, .readAddr, [.dir .input]) := by decide
theorem test_read_address :
    afterStep (fun t => (t.addrHigh, t.addrLow, t.settleCnt, t.trace)) (singleAt .readAddr) =
      some (0x01#8, 0x48#8, 2, [.addr 0x0148#16]) := by decide
theorem test_settle_counts :
    afterStep (fun t => (t.settleCnt, t.micro, t.trace))
        { singleAt .readSettle with settleCnt := 2 } =
      some (1, .readSettle, []) := by decide
theorem test_settle_ends :
    afterStep (fun t => (t.settleCnt, t.micro, t.trace))
        { singleAt .readSettle with settleCnt := 1 } =
      some (0, .readSample, [.settle]) := by decide
theorem test_read_sample :
    afterStep (fun t => (t.rsp, t.rspValid, t.phase, t.trace))
        { singleAt .readSample with addr := 0x0148#16 } =
      some (0x03#8, true, .done, [.sample 0x0148#16 0x03#8]) := by decide
theorem test_bank_driven :
    afterStep (fun t => (t.dout, t.mode, t.trace)) { selectAt .writeDrive with bank := 72#9 } =
      some (0x48#8, .read, [.drive 0x48#8]) := by decide
theorem test_bank_256_driven :
    afterStep (fun t => (t.dout, t.trace)) { selectAt .writeDrive with bank := 256#9 } =
      some (0x00#8, [.drive 0x00#8]) := by decide
theorem test_write_pulse :
    afterStep (fun t => (t.rd, t.wr, t.settleCnt, t.env.cart.bankReg, t.trace))
        { selectAt .pulseWrite with dout := 0x02#8 } =
      some (false, true, 2, 0x02#8, [.mode .write]) := by decide
theorem test_pulse_ends :
    afterStep (fun t => (t.mode, t.ddir, t.phase, t.cur, t.trace))
        { selectAt .pulseRead with mode := .write } =
      some (.read, .output, .bankWin, 0x4000#17, [.mode .read]) := by decide
theorem test_strobe_pins :
    (bench.pinRd, bench.pinWr) = (false, true) := by decide
theorem test_bank_counts :
    [0x00#8, 0x01#8, 0x02#8, 0x03#8, 0x04#8, 0x05#8, 0x06#8, 0x07#8, 0x08#8, 0x09#8, 0x51#8, 0x52#8,
        0x53#8, 0x54#8, 0x55#8, 0xFF#8].map bankCount =
      [some 2#9, some 4#9, some 8#9, some 16#9, some 32#9, some 64#9, some 128#9, some 256#9, none,
        none, none, some 72#9, some 80#9, some 96#9, none, none] := by decide

/-! ### The iterator and the end of a command (§2.7 to §2.9) -/

theorem test_code_resolved :
    afterStep (fun t => (t.phase, t.nbanks, t.bank, t.rspValid)) (romSizeAt 0x52#8 .readSample) =
      some (.select, 72#9, 1#9, false) := by decide
theorem test_code_unsupported :
    afterStep (fun t => (t.phase, t.iterEnd, t.rspValid)) (romSizeAt 0x08#8 .readSample) =
      some (.done, .aborted, false) := by decide
theorem test_next_bank :
    afterStep (fun t => (t.phase, t.bank)) (windowDone 1#9) = some (.select, 2#9) := by decide
theorem test_last_bank :
    afterStep (fun t => (t.phase, t.iterEnd)) (windowDone 2#9) = some (.done, .ended) := by decide
theorem test_abort_ends :
    afterStep (fun t => (t.dstate, t.status, t.trace)) aborted =
      some (.idle, .off, [.status .off]) := by decide
theorem test_byte_sent :
    afterStep (fun t => (t.rspValid, t.trace)) probing = some (false, [.send 0xA0#8]) := by decide
theorem test_reset_in_pulse :
    afterStep (fun t => (t.mode, t.ddir, t.dstate, t.env.cart.bankReg))
        { selectAt .pulseSettle with
          mode := .write
          env := { bench.env with
            pins := { bench.env.pins with rst := true }, cart := { cells := [], bankReg := 0x03#8 } } } =
      some (.read, .input, .idle, 0x03#8) := by decide

/-! ### The settle rule's checker (95_test_vectors.md §2.4) -/

theorem test_settle_accepts :
    settleChecked [.dir .input, .addr 0x0100#16, .settle, .sample 0x0100#16 0x77#8] = true ∧
      settleChecked [.drive 0x01#8] = false ∧
      settleChecked [.addr 0x2000#16, .settle, .drive 0x01#8, .mode .write, .settle, .mode .read] =
        true := by decide
theorem test_settle_rejects :
    settleChecked [.dir .input, .addr 0x0100#16, .sample 0x0100#16 0x77#8] = false ∧
      settleChecked [.addr 0x0100#16, .settle, .addr 0x0101#16, .sample 0x0101#16 0x77#8] = false ∧
      settleChecked [.dir .output, .addr 0x2000#16, .drive 0x01#8] = false ∧
      settleChecked [.addr 0x2000#16, .settle, .drive 0x01#8, .mode .write, .mode .read] = false := by
  decide

/-! ### The cartridge's locations (R50, R52) -/

theorem test_locations :
    [0x0000#16, 0x3FFF#16, 0x4000#16, 0x7FFF#16, 0x8000#16, 0xFFFF#16].map (location 0x02#8) =
      [0x0000, 0x3FFF, 0x24000, 0x27FFF, 0x8000, 0xFFFF] := by decide
theorem test_memory_write :
    Memory.write (Memory.write [(5, 1#8)] 3 2#8) 5 7#8 = [(3, 2#8), (5, 7#8)] := by decide
theorem test_memory_unsorted_refused :
    Memory.wf [(5, 1#8), (3, 2#8)] = false ∧ Memory.wf [(5, 1#8), (5, 2#8)] = false ∧
      Memory.wf [(0x18000, 1#8)] = false := by decide

/-! ### Witnesses: for every statement with hypotheses, states and operands that meet them -/

theorem ready_serving (c : Byte) (rest : List Byte) (cells : Memory) (h : Memory.wf cells = true) :
    (serving (c :: rest) cells).Ready c where
  legal := by
    obtain ⟨h1, _, h3, h4, h5, h6, h7, h8, h9, h10, h11⟩ := legal_serving_nothing
    exact ⟨h1, h, h3, h4, h5, h6, h7, h8, h9, h10, h11⟩
  idle := rfl
  attended := ⟨rfl, rfl⟩
  next := rfl

theorem witness_DecodeInvertsEncode :
    Instr.probe.wellFormed = true ∧ (Instr.ignored 0x09#8).wellFormed = true := by decide

theorem witness_EveryByteIsOneInstruction :
    (Instr.ignored 0xFF#8).wellFormed = true ∧ encodeByte (.ignored 0xFF#8) = 0xFF#8 := by decide

/-- A block after reset whose unspecified registers all hold something else than zero. -/
def afterReset : State :=
  { serving [0x05#8] (header 0x00#8) with
    rsp := 0xFF#8, cur := 0x1FFFF#17, endAddr := 0xFFFF#16, bank := 511#9, nbanks := 1#9
    romcode := 0x55#8, iterEnd := .aborted }

theorem witness_ResetIsSafe : afterReset.AfterReset where
  paramsOk := bench_admissible
  cellsOk := by decide
  mode := rfl
  ddir := rfl
  dstate := rfl
  status := rfl
  phase := rfl
  rspValid := rfl
  settleCnt := rfl
  micro := rfl
  trace := rfl

/-- An executing block at an edge with rst = 1; at the next edge rst is 0 and a byte is on offer. -/
def resetting : State :=
  { probing with
    env := { probing.env with
      pins := { rst := true, offer := true, rspReady := true }
      upcoming := [{ rst := false, offer := true, rspReady := true }] } }

theorem witness_ResetEdgeApplies : resetting.env.pins.rst = true := rfl

theorem witness_ResetStopsCommand :
    resetting.env.pins.rst = true ∧ resetting.dstate = .executing ∧
      afterStep (fun t => (t.env.pins.rst, t.env.offered)) resetting = some (false, some 0x02#8) := by
  decide

theorem witness_StepRunsDecodedInstruction :
    (serving [0x07#8, 0x01#8] []).dstate = .idle ∧
      (serving [0x07#8, 0x01#8] []).env.pins.rst = false ∧
      (serving [0x07#8, 0x01#8] []).env.pins.offer = true ∧
      decode (serving [0x07#8, 0x01#8] []).env.rx = .ok (.dump, [0x01#8]) := ⟨rfl, rfl, rfl, rfl⟩

theorem witness_AcceptStartsRecognised :
    (serving [0x08#8] []).dstate = .idle ∧ (serving [0x08#8] []).env.pins.rst = false ∧
      (serving [0x08#8] []).env.offered = some 0x08#8 ∧ isCommandByte 0x08#8 = true ∧
      (serving [0x09#8] []).env.offered = some 0x09#8 ∧ isCommandByte 0x09#8 = false := by decide

theorem witness_IgnoredByteDoesNothing :
    (serving [0x00#8] []).dstate = .idle ∧ (serving [0x00#8] []).env.pins.rst = false ∧
      (serving [0x00#8] []).env.offered = some 0x00#8 ∧ isCommandByte 0x00#8 = false := by decide

theorem witness_InstructionStartFrame :
    (∃ t, exec .dump bench = .next t) ∧ (∃ t, exec .probe bench = .next t) ∧
      (∃ t, exec .rdtype bench = .next t) ∧ (∃ t, exec .rdtitle bench = .next t) ∧
      ∃ t, exec (.ignored 0x00#8) bench = .next t :=
  ⟨⟨_, rfl⟩, ⟨_, rfl⟩, ⟨_, rfl⟩, ⟨_, rfl⟩, ⟨_, rfl⟩⟩

theorem witness_PortsFollowRegisters :
    (selectAt .none).ddir = .output ∧ (singleAt .none).ddir = .input ∧
      (selectAt .none).status = .blinking ∧ (singleAt .none).status = .off ∧
      bench.dstate = .idle ∧ bench.env.pins.rst = false := by decide

/-- A settle wait with its whole count still to go. -/
def settlingRead : State := { singleAt .readSettle with addr := 0x0148#16, settleCnt := 2 }

theorem witness_SettleWaitCountsDown :
    settlingRead.attended ∧ settlingRead.dstate = .executing ∧ settlingRead.rspValid = false ∧
      settling settlingRead.micro = true ∧ settlingRead.settleCnt = 2 ∧ 1 ≤ 2 :=
  ⟨⟨rfl, rfl⟩, by decide⟩

theorem witness_MemReadRuns :
    (singleAt .none).attended ∧ (singleAt .none).dstate = .executing ∧
      (singleAt .none).rspValid = false ∧ (singleAt .none).micro = .none ∧
      (singleAt .none).mode = .read ∧ atRead (singleAt .none) = true ∧
      1 ≤ (singleAt .none).params.settleCycles ∧ (singleAt .none).phase ≠ .romSize :=
  ⟨⟨rfl, rfl⟩, by decide⟩

theorem witness_MemReadRuns_romSize :
    (romSizeAt 0x00#8 .none).attended ∧ (romSizeAt 0x00#8 .none).dstate = .executing ∧
      (romSizeAt 0x00#8 .none).rspValid = false ∧ (romSizeAt 0x00#8 .none).micro = .none ∧
      (romSizeAt 0x00#8 .none).mode = .read ∧ atRead (romSizeAt 0x00#8 .none) = true ∧
      1 ≤ (romSizeAt 0x00#8 .none).params.settleCycles ∧ (romSizeAt 0x00#8 .none).phase = .romSize :=
  ⟨⟨rfl, rfl⟩, by decide⟩

theorem witness_ReadInWriteModeFaults :
    (singleAt .none).Legal ∧ atRead (singleAt .none) = true ∧
      ({ singleAt .none with mode := .write } : State).env.pins.rst = false ∧
      ({ singleAt .none with mode := .write } : State).dstate = .executing ∧
      ({ singleAt .none with mode := .write } : State).rspValid = false ∧
      ({ singleAt .none with mode := .write } : State).micro = .none ∧
      atRead { singleAt .none with mode := .write } = true ∧
      ({ singleAt .none with mode := .write } : State).mode = .write :=
  ⟨legal_singleAt, by decide⟩

theorem witness_MemWriteKeepsMode :
    (selectAt .none).attended ∧ (selectAt .none).dstate = .executing ∧
      (selectAt .none).rspValid = false ∧ (selectAt .none).micro = .none ∧
      (selectAt .none).mode = .read ∧ (selectAt .none).phase = .select ∧
      1 ≤ (selectAt .none).params.settleCycles :=
  ⟨⟨rfl, rfl⟩, by decide⟩

/-- DUMP of a 256-bank cartridge at the selection of its last bank. -/
def selectLast : State :=
  { selectAt .none with bank := 256#9, nbanks := 256#9, romcode := 0x07#8 }

theorem witness_SelectBankRuns :
    selectLast.attended ∧ selectLast.dstate = .executing ∧ selectLast.rspValid = false ∧
      selectLast.micro = .none ∧ selectLast.mode = .read ∧ selectLast.phase = .select ∧
      1 ≤ selectLast.params.settleCycles :=
  ⟨⟨rfl, rfl⟩, by decide⟩

theorem witness_SelectInWriteModeFaults :
    ({ selectAt .none with mode := .write } : State).env.pins.rst = false ∧
      ({ selectAt .none with mode := .write } : State).dstate = .executing ∧
      ({ selectAt .none with mode := .write } : State).rspValid = false ∧
      ({ selectAt .none with mode := .write } : State).micro = .none ∧
      ({ selectAt .none with mode := .write } : State).phase = .select ∧
      ({ selectAt .none with mode := .write } : State).mode = .write := by decide

theorem witness_BankCountTable :
    (0x00#8 : Byte) ≤ 0x07#8 ∧ (0x07#8 : Byte) ≤ 0x07#8 ∧
      ((0x07#8 : Byte) < 0x08#8 ∧ (0x08#8 : Byte) ≠ 0x52#8 ∧ (0x08#8 : Byte) ≠ 0x53#8 ∧
        (0x08#8 : Byte) ≠ 0x54#8) ∧
      ((0x07#8 : Byte) < 0xFF#8 ∧ (0xFF#8 : Byte) ≠ 0x52#8 ∧ (0xFF#8 : Byte) ≠ 0x53#8 ∧
        (0xFF#8 : Byte) ≠ 0x54#8) ∧
      bankCount 0x00#8 = some 2#9 ∧ bankCount 0x07#8 = some 256#9 := by decide

theorem witness_BankWindowDependsOnBank :
    (0x3FFF#16 : Word16) < 0x4000#16 ∧ (0x7FFF#16 : Word16) < 0x8000#16 ∧
      ((0x4000#16 : Word16) ≤ 0x4000#16 ∧ (0x4000#16 : Word16) ≤ 0x7FFF#16) ∧
      ((0x4000#16 : Word16) ≤ 0x7FFF#16 ∧ (0x7FFF#16 : Word16) ≤ 0x7FFF#16) ∧
      (0x01#8 : Byte) ≠ 0x02#8 := by decide

theorem witness_PhasesMoveAsListed :
    (windowDone 1#9).Legal ∧ (windowDone 1#9).env.pins.rst = false ∧
      (windowDone 1#9).dstate = .executing ∧ (windowDone 1#9).phase = .bankWin ∧
      afterStep (·.phase) (windowDone 1#9) = some .select :=
  ⟨legal_windowDone, by decide⟩

theorem witness_PhasesMoveAsListed_romSize :
    (romSizeAt 0x00#8 .readSample).Legal ∧ (romSizeAt 0x00#8 .readSample).env.pins.rst = false ∧
      (romSizeAt 0x00#8 .readSample).phase = .romSize ∧
      afterStep (·.phase) (romSizeAt 0x00#8 .readSample) = some .select :=
  ⟨legal_romSizeAt, by decide⟩

theorem witness_PhasesMoveAsListed_abort :
    (romSizeAt 0x55#8 .readSample).Legal ∧ (romSizeAt 0x55#8 .readSample).env.pins.rst = false ∧
      afterStep (fun t => (t.phase, t.iterEnd)) (romSizeAt 0x55#8 .readSample) =
        some (.done, .aborted) :=
  ⟨legal_of rfl (by decide), by decide⟩

theorem witness_PhasesMoveAsListed_last :
    ({ windowDone 2#9 with
        env := { bench.env with cart := { cells := [], bankReg := 0x02#8 } } } : State).Legal ∧
      afterStep (fun t => (t.phase, t.iterEnd, t.bank)) (windowDone 2#9) =
        some (.done, .ended, 2#9) :=
  ⟨legal_of rfl (by decide), by decide⟩

/-- DUMP in the middle of the window of bank 1. -/
def inWindow : State := { windowDone 1#9 with cur := 0x5000#17 }

theorem witness_PhasesMoveAsListed_inside :
    inWindow.Legal ∧ afterStep (·.phase) inWindow = some .bankWin ∧
      (selectAt .pulseWrite).phase = .select ∧
      afterStep (·.phase) (selectAt .pulseWrite) = some .select :=
  ⟨legal_of rfl (by decide), by decide⟩

theorem witness_PhasesMoveAsListed_idle :
    (serving [] []).Legal ∧ (serving [] []).env.pins.rst = false ∧ (serving [] []).dstate = .idle ∧
      ∃ t, step (serving [] []) = .next t :=
  ⟨legal_serving_nothing, rfl, rfl, _, rfl⟩

theorem witness_RomSizeDecidesBanks :
    (romSizeAt 0x07#8 .readSample).env.pins.rst = false ∧
      (romSizeAt 0x07#8 .readSample).dstate = .executing ∧
      (romSizeAt 0x07#8 .readSample).rspValid = false ∧
      (romSizeAt 0x07#8 .readSample).micro = .readSample ∧
      (romSizeAt 0x07#8 .readSample).phase = .romSize ∧
      bankCount ((romSizeAt 0x07#8 .readSample).env.busByte (romSizeAt 0x07#8 .readSample).addr) =
        some 256#9 := by decide

theorem witness_RomSizeDecidesBanks_unsupported :
    (romSizeAt 0x08#8 .readSample).env.pins.rst = false ∧
      (romSizeAt 0x08#8 .readSample).dstate = .executing ∧
      (romSizeAt 0x08#8 .readSample).rspValid = false ∧
      (romSizeAt 0x08#8 .readSample).micro = .readSample ∧
      (romSizeAt 0x08#8 .readSample).phase = .romSize ∧
      bankCount ((romSizeAt 0x08#8 .readSample).env.busByte (romSizeAt 0x08#8 .readSample).addr) =
        none := by decide

theorem witness_AbortEndsCommand :
    aborted.env.pins.rst = false ∧ aborted.dstate = .executing ∧ aborted.rspValid = false ∧
      aborted.micro = .none ∧ aborted.phase = .done ∧ aborted.iterEnd = .aborted ∧
      aborted.status = .blinking := by decide

/-- A byte waits and the transport does not take it. -/
def unread : State :=
  { probing with env := { probing.env with pins := { rst := false, offer := true, rspReady := false } } }

/-- A byte waits before a transport that takes it at the third edge. -/
def delayed : State :=
  { unread with
    env := { unread.env with
      upcoming := [{ rst := false, offer := true, rspReady := false },
        { rst := false, offer := true, rspReady := true }] } }

theorem witness_ResponseByteWaits :
    unread.dstate = .executing ∧ unread.rspValid = true ∧ unread.env.pins.rst = false ∧
      unread.env.pins.rspReady = false ∧
      probing.dstate = .executing ∧ probing.rspValid = true ∧ probing.env.pins.rst = false ∧
      probing.env.pins.rspReady = true := by decide

theorem witness_ResponseByteWaits_delay :
    delayed.dstate = .executing ∧ delayed.rspValid = true ∧
      (∀ j < 2, (delayed.env.advanceBy j).pins.rst = false ∧
        (delayed.env.advanceBy j).pins.rspReady = false) ∧
      (delayed.env.advanceBy 2).pins.rst = false ∧
      (delayed.env.advanceBy 2).pins.rspReady = true := by decide

theorem witness_BusyBlockTakesNoByte :
    probing.dstate = .executing ∧ probing.env.rx = [0x02#8] ∧ probing.env.pins.rst = false ∧
      ∃ t, step probing = .next t := ⟨rfl, rfl, rfl, _, rfl⟩

theorem witness_BusQuietWhileWaiting :
    ((serving [0x07#8] []).env.pins.rst = false ∧ (serving [0x07#8] []).dstate = .idle ∧
      ∃ t, step (serving [0x07#8] []) = .next t) ∧
    probing.env.pins.rst = false ∧ probing.rspValid = true ∧ ∃ t, step probing = .next t :=
  ⟨⟨rfl, rfl, _, rfl⟩, rfl, rfl, _, rfl⟩

theorem witness_ExecutingLeftOnlyAtEnd :
    aborted.env.pins.rst = false ∧ aborted.dstate = .executing ∧
      afterStep (·.dstate) aborted = some .idle ∧
      ({ probing with rspValid := false } : State).env.pins.rst = false ∧
      ({ probing with rspValid := false } : State).dstate = .executing ∧
      afterStep (·.dstate) { probing with rspValid := false } = some .idle := by decide

theorem witness_LegalKept :
    (romSizeAt 0x00#8 .readSample).Legal ∧ ∃ t, step (romSizeAt 0x00#8 .readSample) = .next t :=
  ⟨legal_romSizeAt, _, rfl⟩

theorem witness_LegalNeverStops : (selectAt .none).Legal := legal_selectAt

/-- RDROMSZ just before its sample, with the trace that leads there. -/
def sampling : State :=
  { singleAt .readSample with
    addr := 0x0148#16, trace := [.accept 0x03#8, .dir .input, .addr 0x0148#16, .settle] }

theorem legal_sampling : sampling.Legal := legal_of rfl (by decide)

theorem witness_SettleRuleKept : sampling.SettleSafe ∧ ∃ t, step sampling = .next t := by
  refine ⟨⟨legal_sampling, ⟨?_, ?_, ?_⟩, ?_, ?_, ?_⟩, _, rfl⟩
  · intro before a v after h
    have hm : Event.sample a v ∈ sampling.trace := by rw [h]; simp
    simp [sampling] at hm
  · intro before v after h
    have hm : Event.drive v ∈ sampling.trace := by rw [h]; simp
    simp [sampling] at hm
  · intro before between after h
    have hm : Event.mode .write ∈ sampling.trace := by rw [h]; simp
    simp [sampling] at hm
  · exact fun _ => ⟨[.accept 0x03#8, .dir .input, .addr 0x0148#16], [], rfl, by simp⟩
  · exact fun h => by cases h
  · exact fun h => by cases h

theorem witness_AddressRuleKept : sampling.AddressSafe ∧ ∃ t, step sampling = .next t := by
  refine ⟨⟨legal_sampling, ⟨?_, ?_, ?_⟩, ?_⟩, _, rfl⟩
  · intro a h
    simp [sampling] at h
    subst h
    decide
  · intro before a v after h
    have hm : Event.sample a v ∈ sampling.trace := by rw [h]; simp
    simp [sampling] at hm
  · intro before v after h
    have hm : Event.drive v ∈ sampling.trace := by rw [h]; simp
    simp [sampling] at hm
  · exact fun _ => rfl

/-- PROBE with its byte in RSP, with the trace that leads there. -/
def probed : State := { probing with trace := [.accept 0x01#8] }

theorem witness_ResponseRuleKept : probed.ResponseSafe ∧ ∃ t, step probed = .next t := by
  refine ⟨⟨legal_of rfl (by decide), ?_, ?_⟩, _, rfl⟩
  · intro before v after h
    have hm : Event.send v ∈ probed.trace := by rw [h]; simp
    simp [probed] at hm
  · exact fun _ => .inr ⟨rfl, [], rfl⟩

theorem witness_EveryTraceObeysTheRules :
    afterReset.AfterReset ∧ ∃ t, runSteps 2 afterReset = .next t :=
  ⟨witness_ResetIsSafe, _, rfl⟩

theorem witness_ModeReadAfterCommand :
    ({ probing with rspValid := false } : State).Legal ∧
      ({ probing with rspValid := false } : State).dstate = .executing ∧
      afterStep (·.dstate) { probing with rspValid := false } = some .idle :=
  ⟨legal_of rfl (by decide), by decide⟩

theorem witness_BusChangesAreEvents :
    afterStep (·.mode) (selectAt .pulseWrite) = some .write ∧
      (selectAt .pulseWrite).mode = .read ∧
      afterStep (·.addr) (singleAt .readAddr) = some 0x0148#16 ∧ (singleAt .readAddr).addr = 0x1234#16 ∧
      afterStep (·.ddir) { selectAt .none with ddir := .input } = some .output ∧
      afterStep (·.dout) (selectAt .writeDrive) = some 0x01#8 ∧
      (selectAt .writeDrive).dout = 0x5A#8 ∧ (selectAt .writeDrive).env.pins.rst = false := by decide

theorem witness_StepsKeepCartridge :
    (∃ t, step sampling = .next t) ∧ ∃ t, step (selectAt .pulseWrite) = .next t :=
  ⟨⟨_, rfl⟩, _, rfl⟩

/-- Two states that differ in what the cartridge holds at the address to be sampled. -/
theorem witness_BusDataDoesNotSteer :
    (singleAt .readSample).eraseData =
      ({ singleAt .readSample with
        env := { bench.env with cart := { cells := [(0x1234, 0x99#8)], bankReg := 0x05#8 } } } :
          State).eraseData ∧
      ¬ ((singleAt .readSample).micro = .readSample ∧ (singleAt .readSample).phase = .romSize) :=
  ⟨rfl, by decide⟩

theorem witness_ProbeCommand : (serving [0x01#8] []).Ready 0x01#8 := ready_serving _ _ _ rfl

theorem witness_SingleReadCommands :
    (0x03#8, 0x0148#16) ∈
        ([(0x02#8, 0x0147#16), (0x03#8, 0x0148#16), (0x04#8, 0x0143#16)] : List (Byte × Word16)) ∧
      (serving [0x03#8] []).Ready 0x03#8 := ⟨by decide, ready_serving _ _ _ rfl⟩

theorem witness_RangeReadCommands :
    (0x08#8, 0x014E#16, 0x014F#16, 2) ∈
        ([(0x05#8, 0x0134#16, 0x0143#16, 16), (0x06#8, 0x0104#16, 0x0133#16, 48),
          (0x08#8, 0x014E#16, 0x014F#16, 2)] : List (Byte × Word16 × Word16 × Nat)) ∧
      (serving [0x08#8] []).Ready 0x08#8 := ⟨by decide, ready_serving _ _ _ rfl⟩

theorem witness_DumpSupportedCommand :
    (serving [0x07#8] (header 0x00#8)).Ready 0x07#8 ∧
      bankCount (dumpCode (serving [0x07#8] (header 0x00#8)).env.cart.cells
        (serving [0x07#8] (header 0x00#8)).env.cart.bankReg
        (serving [0x07#8] (header 0x00#8)).env.draws) = some 2#9 :=
  ⟨ready_serving _ _ _ (by decide), by decide⟩

theorem witness_DumpUnsupportedCommand :
    (serving [0x07#8] (header 0x55#8)).Ready 0x07#8 ∧
      bankCount (dumpCode (serving [0x07#8] (header 0x55#8)).env.cart.cells
        (serving [0x07#8] (header 0x55#8)).env.cart.bankReg
        (serving [0x07#8] (header 0x55#8)).env.draws) = none :=
  ⟨ready_serving _ _ _ (by decide), by decide⟩

theorem witness_DumpBusWorkCounts :
    (serving [0x07#8] (header 0x07#8)).Ready 0x07#8 ∧
      bankCount (dumpCode (serving [0x07#8] (header 0x07#8)).env.cart.cells
        (serving [0x07#8] (header 0x07#8)).env.cart.bankReg
        (serving [0x07#8] (header 0x07#8)).env.draws) = some 256#9 ∧
      (serving [0x07#8] (header 0x08#8)).Ready 0x07#8 ∧
      bankCount (dumpCode (serving [0x07#8] (header 0x08#8)).env.cart.cells
        (serving [0x07#8] (header 0x08#8)).env.cart.bankReg
        (serving [0x07#8] (header 0x08#8)).env.draws) = none :=
  ⟨ready_serving _ _ _ (by decide), by decide, ready_serving _ _ _ (by decide), by decide⟩

/-- The hypotheses of DumpResponse are those of DumpBusWorkCounts; here with 72 banks, and the bounds of its
indices. -/
theorem witness_DumpResponse :
    (serving [0x07#8] (header 0x52#8)).Ready 0x07#8 ∧
      bankCount (dumpCode (serving [0x07#8] (header 0x52#8)).env.cart.cells
        (serving [0x07#8] (header 0x52#8)).env.cart.bankReg
        (serving [0x07#8] (header 0x52#8)).env.draws) = some 72#9 ∧
      (1 ≤ 72 ∧ 72 ≤ (72#9 : BankNo).toNat ∧ 0x3FFF < 0x4000) :=
  ⟨ready_serving _ _ _ (by decide), by decide, by decide⟩

theorem witness_HeaderReadsIdempotent :
    (0x08#8, 0x014E#16, 2) ∈
        ([(0x02#8, 0x0147#16, 1), (0x03#8, 0x0148#16, 1), (0x04#8, 0x0143#16, 1),
          (0x05#8, 0x0134#16, 16), (0x06#8, 0x0104#16, 48), (0x08#8, 0x014E#16, 2)] :
          List (Byte × Word16 × Nat)) ∧
      (serving [0x08#8, 0x08#8, 0x01#8] (header 0x00#8)).Ready 0x08#8 ∧
      (serving [0x08#8, 0x08#8, 0x01#8] (header 0x00#8)).env.rx = 0x08#8 :: 0x08#8 :: [0x01#8] ∧
      ∀ i < 2, ∃ v, (serving [0x08#8, 0x08#8, 0x01#8] (header 0x00#8)).env.cart.knownByte
        (0x014E#16 + BitVec.ofNat 16 i) = some v := by
  refine ⟨by decide, ready_serving _ _ _ (by decide), rfl, ?_⟩
  intro i hi
  have h : i = 0 ∨ i = 1 := by omega
  rcases h with rfl | rfl
  · exact ⟨0x12#8, by decide⟩
  · exact ⟨0x34#8, by decide⟩

theorem witness_CommandTraces :
    (serving [0x01#8] []).Ready 0x01#8 ∧ (serving [0x04#8] []).Ready 0x04#8 ∧
      (0x04#8, 0x0143#16) ∈
        ([(0x02#8, 0x0147#16), (0x03#8, 0x0148#16), (0x04#8, 0x0143#16)] : List (Byte × Word16)) ∧
      (serving [0x06#8] []).Ready 0x06#8 ∧
      (0x06#8, 0x0104#16, 0x0133#16, 48) ∈
        ([(0x05#8, 0x0134#16, 0x0143#16, 16), (0x06#8, 0x0104#16, 0x0133#16, 48),
          (0x08#8, 0x014E#16, 0x014F#16, 2)] : List (Byte × Word16 × Word16 × Nat)) :=
  ⟨ready_serving _ _ _ rfl, ready_serving _ _ _ rfl, by decide, ready_serving _ _ _ rfl, by decide⟩

theorem witness_DumpTrace : (serving [0x07#8] []).Ready 0x07#8 ∧
    bankCount 0x54#8 = some 96#9 ∧ bankCount 0x55#8 = none :=
  ⟨ready_serving _ _ _ rfl, by decide⟩

theorem witness_ExecuteStepFrame :
    (singleAt .none).Legal ∧ (singleAt .none).env.pins.rst = false ∧
      (singleAt .none).dstate = .executing ∧ (∃ t, step (singleAt .none) = .next t) ∧
      (singleAt .none).cmd ≠ 0x07#8 ∧ (singleAt .none).cmd ≤ 0x04#8 ∧
      probing.Legal ∧ probing.dstate = .executing ∧ probing.cmd = 0x01#8 ∧
      ∃ t, step probing = .next t :=
  ⟨legal_singleAt, rfl, rfl, ⟨_, rfl⟩, by decide, by decide, legal_probing, rfl, rfl, _, rfl⟩

theorem witness_CommandsComplete :
    inWindow.Legal ∧ inWindow.dstate = .executing ∧ inWindow.attended :=
  ⟨legal_of rfl (by decide), rfl, rfl, rfl⟩

/-! A cartridge whose base window and whose banks 1 and 2 are all known: every byte is 0x00, the ROM-size
code of two banks among them. -/

/-- `n` known zero bytes from location `lo` on, before the cells `m`. -/
def zeros (lo : Nat) : Nat → Memory → Memory
  | 0, m => m
  | n + 1, m => (lo, 0x00#8) :: zeros (lo + 1) n m

theorem read_zeros {lo n k : Nat} (m : Memory) (h : lo ≤ k) (h' : k < lo + n) :
    (zeros lo n m).read k = some 0x00#8 := by
  induction n generalizing lo with
  | zero => omega
  | succ n ih =>
    simp only [zeros, Memory.read]
    split
    · rfl
    · exact ih (by omega) (by omega)

theorem read_after_zeros {lo n k : Nat} (m : Memory) (h : lo + n ≤ k) :
    (zeros lo n m).read k = m.read k := by
  induction n generalizing lo with
  | zero => rfl
  | succ n ih =>
    simp only [zeros, Memory.read, show lo ≠ k by omega, if_false]
    exact ih (by omega)

theorem wfAbove_zeros {l lo n : Nat} {m : Memory} (h : l < lo)
    (hl : ∀ k, lo ≤ k → k < lo + n → isLocation k = true)
    (hm : ∀ j, j < lo + n → m.wfAbove j = true) : (zeros lo n m).wfAbove l = true := by
  induction n generalizing l lo with
  | zero => exact hm l (by omega)
  | succ n ih =>
    simp only [zeros, Memory.wfAbove, Bool.and_eq_true, decide_eq_true_eq]
    exact ⟨⟨h, hl lo (by omega) (by omega)⟩,
      ih (by omega) (fun k h1 h2 => hl k (by omega) (by omega)) (fun j hj => hm j (by omega))⟩

theorem isLocation_window {b k : Nat} (hb : b < 256) (h : b * 0x10000 + 0x4000 ≤ k)
    (h' : k < b * 0x10000 + 0x8000) : isLocation k = true := by
  have hw : inBankWindow (BitVec.ofNat 16 k) = true := by
    simp only [inBankWindow, Bool.and_eq_true, decide_eq_true_eq, BitVec.le_def, BitVec.toNat_ofNat]
    omega
  simp only [isLocation, hw, Bool.and_true, Bool.or_eq_true, decide_eq_true_eq]
  omega

/-- The cartridge with windows of `w` bytes; it is used with w = 0x4000. -/
def twoBanks (w : Nat) : Memory := zeros 0 w (zeros 0x14000 w (zeros 0x24000 w []))

theorem wf_twoBanks {w : Nat} (h : w ≤ 0x4000) (h' : 0 < w) : (twoBanks w).wf = true := by
  have h2 : ∀ j, j < 0x24000 → (zeros 0x24000 w []).wfAbove j = true := fun j hj =>
    wfAbove_zeros hj (fun k h1 h2 => isLocation_window (b := 2) (by omega) (by omega) (by omega))
      (fun _ _ => rfl)
  have h1 : ∀ j, j < 0x14000 → (zeros 0x14000 w (zeros 0x24000 w [])).wfAbove j = true := fun j hj =>
    wfAbove_zeros hj (fun k h1 h2 => isLocation_window (b := 1) (by omega) (by omega) (by omega))
      (fun i hi => h2 i (by omega))
  obtain ⟨n, rfl⟩ : ∃ n, w = n + 1 := ⟨w - 1, by omega⟩
  simp only [twoBanks]
  rw [zeros, Memory.wf, Bool.and_eq_true]
  refine ⟨by decide, wfAbove_zeros (by omega) (fun k h1 h2 => ?_) (fun i hi => h1 i (by omega))⟩
  simp only [isLocation, Bool.or_eq_true, decide_eq_true_eq]
  omega

theorem read_base (w : Nat) (a : Word16) (b : Byte) (hw : w = 0x4000) (h : a ≤ 0x3FFF#16) :
    (twoBanks w).read (location b a) = some 0x00#8 := by
  simp only [BitVec.le_def, BitVec.toNat_ofNat] at h
  have hl : location b a = a.toNat := by
    simp [location, inBankWindow, BitVec.le_def]
    omega
  rw [hl]
  exact read_zeros _ (by omega) (by omega)

theorem read_window (w : Nat) (a : Word16) (b : Byte) (hw : w = 0x4000) (hb : b = 0x01#8 ∨ b = 0x02#8)
    (h : 0x4000#16 ≤ a) (h' : a ≤ 0x7FFF#16) : (twoBanks w).read (location b a) = some 0x00#8 := by
  have hl : location b a = b.toNat * 0x10000 + a.toNat := by simp [location, inBankWindow, h, h']
  simp only [BitVec.le_def, BitVec.toNat_ofNat] at h h'
  rw [hl, twoBanks]
  rcases hb with rfl | rfl
  · rw [read_after_zeros _ (by simp; omega)]
    exact read_zeros _ (by simp; omega) (by simp; omega)
  · rw [read_after_zeros _ (by simp; omega), read_after_zeros _ (by simp; omega)]
    exact read_zeros _ (by simp; omega) (by simp; omega)

theorem witness_DumpIdempotent :
    ∃ w, (serving [0x07#8, 0x07#8, 0x01#8] (twoBanks w)).Ready 0x07#8 ∧
      (serving [0x07#8, 0x07#8, 0x01#8] (twoBanks w)).env.rx = 0x07#8 :: 0x07#8 :: [0x01#8] ∧
      (serving [0x07#8, 0x07#8, 0x01#8] (twoBanks w)).env.cart.knownByte 0x0148#16 = some 0x00#8 ∧
      bankCount 0x00#8 = some 2#9 ∧
      (∀ a : Word16, a ≤ 0x3FFF#16 →
        ∃ v, (serving [0x07#8, 0x07#8, 0x01#8] (twoBanks w)).env.cart.knownByte a = some v) ∧
      ∀ n, bankCount 0x00#8 = some n → ∀ b, 1 ≤ b → b ≤ n.toNat → ∀ a : Word16,
        0x4000#16 ≤ a → a ≤ 0x7FFF#16 →
        ∃ v, Memory.read (serving [0x07#8, 0x07#8, 0x01#8] (twoBanks w)).env.cart.cells
          (location (trunc8 (BitVec.ofNat 9 b)) a) = some v := by
  obtain ⟨w, hw⟩ : ∃ w, w = 0x4000 := ⟨_, rfl⟩
  refine ⟨w, ready_serving _ _ _ (wf_twoBanks (by omega) (by omega)), rfl,
    read_base w _ _ hw (by decide), by decide, fun a ha => ⟨_, read_base w a _ hw ha⟩, ?_⟩
  intro n hn b hb1 hb2 a ha ha'
  have h2 : bankCount 0x00#8 = some 2#9 := by decide
  rw [h2] at hn
  cases hn
  have hb : b = 1 ∨ b = 2 := by
    simp at hb2
    omega
  exact ⟨_, read_window w a _ hw (by rcases hb with rfl | rfl <;> decide) ha ha'⟩

end Sys2Proof.Tests
end

section
/-! PROOFS. The family of spec/10_state.md: the state's reset values, its ports, the frames of the accepting
edge and of the Execute steps, and the invariant `State.Legal`. -/

namespace Sys2Proof.Machine

variable {s t : State}

/-! ### What an accepting edge can do -/

/-- What the accepting edge of an instruction can do (R185 to R193): PROBE offers its byte, a Single or a Range
region is set up for the command's own byte, DUMP sets up the Banked region, any other byte does nothing. -/
theorem exec_next {i : Instr} (h : exec i s = .next t) :
    (i = .probe ∧ t = offerByte probeValue (beginCommand 0x01#8 s)) ∨
    ((i = .rdtype ∨ i = .rdromsz ∨ i = .rdgbc) ∧
      t = initSingle (singleAddr (encodeByte i)) (beginCommand (encodeByte i) s)) ∨
    ((i = .rdtitle ∨ i = .rdlogo ∨ i = .rdcksum) ∧
      t = initRange (rangeFirst (encodeByte i)) (rangeLast (encodeByte i))
        (statusOn (beginCommand (encodeByte i) s))) ∨
    (i = .dump ∧ t = initBanked (statusOn (beginCommand 0x07#8 s))) ∨
    ((∃ b, i = .ignored b) ∧ t = s) := by
  cases i <;> cases h
  case probe => exact .inl ⟨rfl, rfl⟩
  case rdtype | rdromsz | rdgbc => exact .inr (.inl ⟨by simp, rfl⟩)
  case rdtitle | rdlogo | rdcksum => exact .inr (.inr (.inl ⟨by simp, rfl⟩))
  case dump => exact .inr (.inr (.inr (.inl ⟨rfl, rfl⟩)))
  case ignored b => exact .inr (.inr (.inr (.inr ⟨⟨b, rfl⟩, rfl⟩)))

/-! ### The commands in which a phase occurs -/

/-- Every phase but None leads to Done in the same command (R158). -/
theorem phaseFits_done {c : Byte} {p : Phase} (h : phaseFits c p = true) (hp : p ≠ .none) :
    phaseFits c .done = true := by
  cases p <;> simp only [phaseFits, Bool.or_eq_true, beq_iff_eq] at h
  case none => exact absurd rfl hp
  case single | range => rcases h with (rfl | rfl) | rfl <;> decide
  case base | romSize | select | bankWin => subst h; decide
  case done => simpa [phaseFits] using h

/-- Only DUMP goes through the phases of the banked region (R191). -/
theorem phase_of_not_dump {c : Byte} {p : Phase} (h : phaseFits c p = true) (hc : c ≠ 0x07#8) :
    p ≠ .base ∧ p ≠ .romSize ∧ p ≠ .select ∧ p ≠ .bankWin := by
  refine ⟨?_, ?_, ?_, ?_⟩ <;> rintro rfl <;> simp [phaseFits, hc] at h

/-- The commands up to 0x04 have no contiguous range (R185 to R188). -/
theorem phase_of_le_four {c : Byte} {p : Phase} (h : phaseFits c p = true) (hc : c ≤ 0x04#8) :
    p ≠ .range := by
  rintro rfl
  simp only [phaseFits, Bool.or_eq_true, beq_iff_eq] at h
  rcases h with (rfl | rfl) | rfl <;> exact absurd hc (by decide)

/-- PROBE has no region (R185). -/
theorem phase_of_probe {p : Phase} (h : phaseFits 0x01#8 p = true) : p = .none := by
  cases p with
  | none => rfl
  | _ => exact absurd h (by decide)

/-! ### The iterator's registers -/

/-- A bank count is at least 1 (R130). -/
theorem one_le_bankCount {code : Byte} {n : BankNo} (h : bankCount code = some n) : 1#9 ≤ n := by
  unfold bankCount at h
  split at h
  next hle =>
    cases h
    have hk : code.toNat ≤ 7 := by simpa [BitVec.le_def] using hle
    generalize code.toNat = k at hk
    interval_cases k <;> decide
  next =>
    split_ifs at h <;> cases h <;> decide

/-- A region starts with CUR at its first address (R152, R153). -/
theorem inRange_first {first last : Word16} (hr : zext17 first ≤ zext17 last + 1#17)
    (hc : t.cur = zext17 first) (he : t.endAddr = last) : inRange t first last = true := by
  simp [inRange, hc, he, hr]

/-- CUR moves on inside a range while an address is left (R152). -/
theorem inRange_succ {first last : Word16} (h : inRange s first last = true)
    (hl : rangeLeft s = true) (hc : t.cur = s.cur + 1#17) (he : t.endAddr = s.endAddr) :
    inRange t first last = true := by
  simp only [inRange, rangeLeft, Bool.and_eq_true, beq_iff_eq, decide_eq_true_eq, hc, he] at *
  obtain ⟨⟨hend, hfirst⟩, hlast⟩ := h
  subst hend
  simp only [zext17] at *
  refine ⟨⟨trivial, ?_⟩, ?_⟩ <;> bv_omega

/-- The first bank of a resolved count (R153). -/
theorem banksResolved_first (hc : bankCount t.romcode = some t.nbanks) (hb : t.bank = 1#9) :
    banksResolved t = true := by
  simp [banksResolved, hc, hb, one_le_bankCount hc]

/-- The next bank of a resolved count (R153). -/
theorem banksResolved_succ (h : banksResolved s = true) (hlt : s.bank < s.nbanks)
    (hb : t.bank = s.bank + 1#9) (hn : t.nbanks = s.nbanks) (hr : t.romcode = s.romcode) :
    banksResolved t = true := by
  simp only [banksResolved, Bool.and_eq_true, beq_iff_eq, decide_eq_true_eq, hb, hn, hr] at *
  obtain ⟨⟨hcount, hfirst⟩, -⟩ := h
  refine ⟨⟨hcount, ?_⟩, ?_⟩ <;> bv_omega

/-! ### The bus at rest, and the legal states between two primitives -/

/-- No primitive is in progress: the bus is in Read mode and no settle wait runs (R21, R27, R133). -/
structure BusAtRest (s : State) : Prop where
  paramsOk : s.params.admissible
  cellsOk : Memory.wf s.env.cart.cells = true
  mode : s.mode = .read
  micro : s.micro = .none
  settleCnt : s.settleCnt = 0

/-- Outside the Write pulse a legal state is in Read mode (R133). -/
theorem State.Legal.mode_read (h : s.Legal) (hp : inPulse s.micro = false) : s.mode = .read := by
  cases hm : s.mode with
  | read => rfl
  | write => exact absurd (h.modeOk.mp hm) (by simp [hp])

/-- Between two primitives the bus of a legal state is at rest. -/
theorem State.Legal.busAtRest (h : s.Legal) (hm : s.micro = .none) : BusAtRest s where
  paramsOk := h.paramsOk
  cellsOk := h.cellsOk
  mode := h.mode_read (by simp [hm, inPulse])
  micro := hm
  settleCnt := h.settleOk.2 (by simp [hm, settling])

/-- The block at rest outside a command is legal, whatever the unspecified registers hold. -/
theorem BusAtRest.legal_idle (h : BusAtRest t) (hd : t.dstate = .idle) (hp : t.phase = .none)
    (hv : t.rspValid = false) (hs : t.status = .off) : t.Legal where
  paramsOk := h.paramsOk
  cellsOk := h.cellsOk
  modeOk := by simp [h.mode, h.micro, inPulse]
  idleOk _ := ⟨hp, h.micro, hv, hs⟩
  cmdOk he := by simp [hd] at he
  statusOk he := by simp [hd] at he
  iteratorOk := by simp [iteratorFits, hp]
  positionOk := by simp [positionFits, h.micro]
  responseOk he := by simp [hv] at he
  settleOk := by simp [h.settleCnt]
  bankOk he := by simp [hp, h.micro, inPulse] at he

/-- A command between two primitives is legal where CMD, PHASE, STATUS and the iterator's registers fit. -/
theorem BusAtRest.legal_executing (h : BusAtRest t) (hd : t.dstate = .executing)
    (hc : isCommandByte t.cmd = true ∧ phaseFits t.cmd t.phase = true)
    (hs : t.status = .blinking ↔ 0x05#8 ≤ t.cmd) (hi : iteratorFits t = true)
    (hv : t.rspValid = true → t.phase ≠ .single ∧ t.phase ≠ .romSize ∧ t.phase ≠ .select)
    (hb : t.phase = .bankWin → t.env.cart.bankReg = trunc8 t.bank) : t.Legal where
  paramsOk := h.paramsOk
  cellsOk := h.cellsOk
  modeOk := by simp [h.mode, h.micro, inPulse]
  idleOk he := by simp [hd] at he
  cmdOk _ := hc
  statusOk _ := hs
  iteratorOk := hi
  positionOk := by simp [positionFits, h.micro]
  responseOk he := ⟨h.micro, hv he⟩
  settleOk := by simp [h.settleCnt]
  bankOk he := hb (by simpa [h.micro, inPulse] using he)

/-! ### Edges that leave the sequencer where it is -/

/-- Inputs, bytes the transport holds, samples taken, trace and clocks are free in a legal state. -/
theorem State.Legal.withOutside (h : s.Legal) (e : Env) (hc : e.cart = s.env.cart)
    (tr : List Event) (n : Nat) : State.Legal { s with env := e, trace := tr, clocks := n } :=
  { h with
    cellsOk := by simpa [hc] using h.cellsOk
    bankOk := by simpa [hc] using h.bankOk }

theorem State.Legal.after_advanceInputs (h : s.Legal) : (advanceInputs s).Legal :=
  h.withOutside _ (advance_cart _) _ _

theorem State.Legal.after_wait (h : s.Legal) : (wait s).Legal :=
  h.withOutside _ rfl _ _

theorem State.Legal.after_takeByte (h : s.Legal) (c : Byte) : (takeByte c s).Legal :=
  h.withOutside { s.env with rx := s.env.rx.tail } rfl _ _

/-- The waiting byte is taken (R182). -/
theorem State.Legal.after_byteTaken (h : s.Legal) (hd : s.dstate = .executing) : (byteTaken s).Legal :=
  { h with
    idleOk := fun he => by simp [hd] at he
    responseOk := fun he => by simp at he }

/-- Reset leaves the block at rest (R240). -/
theorem State.Legal.after_resetEdge (h : s.Legal) : (resetEdge s).Legal :=
  BusAtRest.legal_idle ⟨h.paramsOk, h.cellsOk, rfl, rfl, rfl⟩ rfl rfl rfl rfl

/-- The start of every command from the block at rest is legal (R185 to R193). -/
theorem State.Legal.after_exec {i : Instr} (h : s.Legal) (hd : s.dstate = .idle)
    (he : exec i s = .next t) : t.Legal := by
  obtain ⟨hphase, hmicro, hvalid, hstatus⟩ := h.idleOk hd
  have hb : BusAtRest s := h.busAtRest hmicro
  have hoff : ∀ c : Byte, ¬ 0x05#8 ≤ c → (s.status = .blinking ↔ 0x05#8 ≤ c) := fun c hc => by
    simp [hstatus, hc]
  rcases exec_next he with ⟨-, rfl⟩ | ⟨hi, rfl⟩ | ⟨hi, rfl⟩ | ⟨-, rfl⟩ | ⟨-, rfl⟩
  · exact BusAtRest.legal_executing { hb with } rfl (by simp [hphase]; decide)
      (hoff 0x01#8 (by decide)) (by simp [iteratorFits, hphase]) (by simp [hphase])
      (by simp [hphase])
  · obtain ⟨hcmd, hlow⟩ : (isCommandByte (encodeByte i) = true ∧
        phaseFits (encodeByte i) .single = true) ∧ ¬ 0x05#8 ≤ encodeByte i := by
      rcases hi with rfl | rfl | rfl <;> decide
    exact BusAtRest.legal_executing { hb with } rfl hcmd (hoff _ hlow)
      (by simp [iteratorFits, initSingle]) (by simp [initSingle, hvalid]) nofun
  · obtain ⟨hcmd, hhigh, hrange⟩ : (isCommandByte (encodeByte i) = true ∧
        phaseFits (encodeByte i) .range = true) ∧ 0x05#8 ≤ encodeByte i ∧
        zext17 (rangeFirst (encodeByte i)) ≤ zext17 (rangeLast (encodeByte i)) + 1#17 := by
      rcases hi with rfl | rfl | rfl <;> decide
    exact BusAtRest.legal_executing { hb with } rfl hcmd ⟨fun _ => hhigh, fun _ => rfl⟩
      (inRange_first hrange rfl rfl) (by simp [initRange, hvalid]) nofun
  · exact BusAtRest.legal_executing { hb with } rfl ⟨rfl, rfl⟩ (by simp [initBanked])
      (inRange_first (first := baseFirst) (last := baseLast) (by decide) rfl rfl)
      (by simp [initBanked, hvalid]) nofun
  · exact h

/-! ### The micro-steps of a bus primitive -/

/-- `t` has the parameters, the cartridge's contents and every register of the dispatcher and the iterator of
`s`: the two differ at most in the bus registers, the sequencer's position and the environment's signals. -/
structure SameControl (s t : State) : Prop where
  params : t.params = s.params
  cells : t.env.cart.cells = s.env.cart.cells
  dstate : t.dstate = s.dstate
  cmd : t.cmd = s.cmd
  status : t.status = s.status
  rsp : t.rsp = s.rsp
  rspValid : t.rspValid = s.rspValid
  phase : t.phase = s.phase
  cur : t.cur = s.cur
  endAddr : t.endAddr = s.endAddr
  bank : t.bank = s.bank
  nbanks : t.nbanks = s.nbanks
  romcode : t.romcode = s.romcode

theorem sameControl_driveDir (d : Dir) (m : Micro) (s : State) : SameControl s (driveDir d m s) := by
  constructor <;> rfl

theorem sameControl_driveAddr (a : Word16) (m : Micro) (s : State) :
    SameControl s (driveAddr a m s) := by
  constructor <;> rfl

theorem sameControl_driveData (v : Byte) (m : Micro) (s : State) :
    SameControl s (driveData v m s) := by
  constructor <;> rfl

theorem sameControl_settleEdge (m : Micro) (s : State) : SameControl s (settleEdge m s) := by
  rcases settleEdge_cases m s with ⟨-, he⟩ | ⟨-, he⟩ <;> rw [he] <;> constructor <;> rfl

theorem sameControl_selectPulse (s : State) : SameControl s (selectPulse s) := by
  constructor
  case cells => simp [selectPulse, setMode]
  all_goals rfl

theorem SameControl.atRead_eq (hc : SameControl s t) : atRead t = atRead s := by
  simp only [atRead, rangeLeft, hc.phase, hc.cur, hc.endAddr]

theorem SameControl.readOperand_eq (hc : SameControl s t) : readOperand t = readOperand s := by
  simp only [readOperand, hc.phase, hc.cur]

theorem SameControl.iteratorFits_eq (hc : SameControl s t) : iteratorFits t = iteratorFits s := by
  simp only [iteratorFits, inRange, banksResolved, hc.phase, hc.cmd, hc.cur, hc.endAddr, hc.bank,
    hc.nbanks, hc.romcode]

/-- Nothing is read outside a region. -/
theorem phase_of_atRead (h : atRead s = true) : s.phase ≠ .none := by
  intro hp
  simp [atRead, hp] at h

/-- The cartridge's bank register takes the bank on the data lines when the Write pulse begins (R131,
log 5). -/
theorem bankReg_selectPulse (ha : s.addr = bankSelectAddr) (hd : s.ddir = .output) :
    (selectPulse s).env.cart.bankReg = s.dout := by
  simp [selectPulse, setMode, Cart.onMode, ha, hd]

/-! ### The edges that end a primitive or a command -/

/-- `End()` leaves the block at rest (R181). -/
theorem State.Legal.after_endCommand (h : s.Legal) (hv : s.rspValid = false) (hm : s.micro = .none) :
    (endCommand s).Legal :=
  BusAtRest.legal_idle { h.busAtRest hm with } rfl rfl hv rfl

/-- The sample step ends the read, and the bus is at rest again (R103). -/
theorem State.Legal.busAtRest_sampleBus (h : s.Legal) (hm : s.micro = .readSample) :
    BusAtRest (sampleBus s) :=
  ⟨h.paramsOk, h.cellsOk, h.mode_read (by rw [hm]; rfl), rfl, h.settleOk.2 (by rw [hm]; rfl)⟩

/-- A byte of a contiguous range is returned (R152, R153). -/
theorem State.Legal.after_returnNext (h : s.Legal) (hd : s.dstate = .executing)
    (hm : s.micro = .readSample) (hp : s.phase = .range ∨ s.phase = .base ∨ s.phase = .bankWin)
    (v : Byte) : (returnNext v (sampleBus s)).Legal := by
  have hi := h.iteratorOk
  have hleft : rangeLeft s = true := by
    have hpos := h.positionOk
    simp only [positionFits, hm, Bool.and_eq_true] at hpos
    obtain ⟨⟨hread, -⟩, -⟩ := hpos
    rcases hp with hp | hp | hp <;> simpa [atRead, hp] using hread
  have hb := h.busAtRest_sampleBus hm
  refine BusAtRest.legal_executing (t := returnNext v (sampleBus s)) { hb with } hd (h.cmdOk hd)
    (h.statusOk hd) ?_ ?_ fun he => h.bankOk (.inl he)
  · have hkeep {first last} (hr : inRange s first last = true) :
        inRange (returnNext v (sampleBus s)) first last = true := inRange_succ hr hleft rfl rfl
    have hphase : (returnNext v (sampleBus s)).phase = s.phase := rfl
    rcases hp with hp | hp | hp <;> simp only [iteratorFits, hphase, hp] at hi ⊢
    · exact hkeep hi
    · exact hkeep hi
    · rw [Bool.and_eq_true] at hi ⊢
      exact ⟨hkeep hi.1, hi.2⟩
  · change _ → s.phase ≠ _ ∧ s.phase ≠ _ ∧ s.phase ≠ _
    rcases hp with hp | hp | hp <;> simp [hp]

/-- SetMode(Read) closes the Write pulse, and the bank window is read next (R131, R153). -/
theorem State.Legal.after_selectEnd (h : s.Legal) (hd : s.dstate = .executing)
    (hm : s.micro = .pulseRead) : (selectEnd s).Legal := by
  have hpos := h.positionOk
  simp only [positionFits, hm, Bool.and_eq_true, beq_iff_eq] at hpos
  obtain ⟨⟨⟨hphase, -⟩, -⟩, -⟩ := hpos
  have hbanks : banksResolved s = true := by simpa [iteratorFits, hphase] using h.iteratorOk
  have hcmd : isCommandByte s.cmd = true ∧ phaseFits s.cmd .bankWin = true := by
    simpa [hphase, phaseFits] using h.cmdOk hd
  have hz : s.settleCnt = 0 := h.settleOk.2 (by rw [hm]; rfl)
  have hbank : s.env.cart.bankReg = trunc8 s.bank := h.bankOk (.inr (by rw [hm]; rfl))
  refine BusAtRest.legal_executing ⟨h.paramsOk, h.cellsOk, rfl, rfl, hz⟩ hd hcmd (h.statusOk hd) ?_
    (by simp [selectEnd]) fun _ => hbank
  have hrange : inRange (selectEnd s) bankWinFirst bankWinLast = true :=
    inRange_first (by decide) rfl rfl
  change (inRange (selectEnd s) bankWinFirst bankWinLast && banksResolved s) = true
  rw [hrange, hbanks]; rfl

/-! ### The Execute steps with no response byte waiting -/

section
variable (h : s.Legal) (hd : s.dstate = .executing) (hv : s.rspValid = false)
include h hd hv

/-- A step that keeps the control registers is legal where what it does to the bus is. -/
theorem State.Legal.of_sameControl (hc : SameControl s t)
    (hmode : t.mode = .write ↔ inPulse t.micro = true) (hpos : positionFits t = true)
    (hset : t.settleCnt ≤ s.params.settleCycles ∧ (settling t.micro = false → t.settleCnt = 0))
    (hbank : s.phase = .bankWin ∨ inPulse t.micro = true →
      t.env.cart.bankReg = trunc8 s.bank) : t.Legal where
  paramsOk := by rw [hc.params]; exact h.paramsOk
  cellsOk := by rw [hc.cells]; exact h.cellsOk
  modeOk := hmode
  idleOk he := by simp [hc.dstate, hd] at he
  cmdOk _ := by rw [hc.cmd, hc.phase]; exact h.cmdOk hd
  statusOk _ := by rw [hc.status, hc.cmd]; exact h.statusOk hd
  iteratorOk := by rw [hc.iteratorFits_eq]; exact h.iteratorOk
  positionOk := hpos
  responseOk he := by simp [hc.rspValid, hv] at he
  settleOk := by rw [hc.params]; exact hset
  bankOk := by rw [hc.phase, hc.bank]; exact hbank

/-- A micro-step that keeps MODE, the cartridge and its side of the Write pulse is legal where its lines and
its settle count are. -/
theorem State.Legal.of_busStep (hc : SameControl s t) (hm : t.mode = s.mode) (he : t.env = s.env)
    (hp : inPulse t.micro = inPulse s.micro) (hpos : positionFits t = true)
    (hset : t.settleCnt ≤ s.params.settleCycles ∧ (settling t.micro = false → t.settleCnt = 0)) :
    t.Legal :=
  h.of_sameControl hd hv hc (by rw [hm, hp]; exact h.modeOk) hpos hset
    (by rw [he, hp]; exact h.bankOk)

/-- The first step of MemRead and of MemWrite (R103, R105). -/
theorem State.Legal.after_driveDir (hm : s.micro = .none) {d : Dir} {m : Micro}
    (hp : inPulse m = false) (hpos : positionFits (driveDir d m s) = true) : (driveDir d m s).Legal :=
  have hz : s.settleCnt = 0 := (h.busAtRest hm).settleCnt
  h.of_busStep hd hv (sameControl_driveDir d m s) rfl rfl (by rw [hm]; exact hp) hpos
    ⟨by simp [driveDir, hz], fun _ => hz⟩

/-- The address step of MemRead and of MemWrite (R103, R105, R107). -/
theorem State.Legal.after_driveAddr {a : Word16} {m : Micro} (hp : inPulse m = inPulse s.micro)
    (hs : settling m = true) (hpos : positionFits (driveAddr a m s) = true) : (driveAddr a m s).Legal :=
  h.of_busStep hd hv (sameControl_driveAddr a m s) rfl rfl hp hpos
    ⟨Nat.le_refl _, fun hn => by simp [driveAddr, hs] at hn⟩

/-- The position a settle wait leads to asks no more of the bus than the wait itself. -/
theorem State.Legal.after_settleEdge {m : Micro} (hp : inPulse m = inPulse s.micro)
    (hs : settling s.micro = true) (hpos : positionFits { s with micro := m } = true) : (settleEdge m s).Legal := by
  have hc := sameControl_settleEdge m s
  rcases settleEdge_cases m s with ⟨-, he⟩ | ⟨hlt, he⟩ <;> rw [he] at hc ⊢
  · exact h.of_busStep hd hv hc rfl rfl hp hpos ⟨Nat.zero_le _, fun _ => rfl⟩
  · exact h.of_busStep hd hv hc rfl rfl rfl h.positionOk
      ⟨Nat.le_trans (Nat.sub_le _ _) h.settleOk.1, fun hn => by simp [hs] at hn⟩

/-- The address step of MemRead drives the iterator's address (R103). -/
theorem State.Legal.after_readAddrStep (hm : s.micro = .readAddr) :
    (driveAddr (readOperand s) .readSettle s).Legal := by
  have hpos := h.positionOk
  have hc := sameControl_driveAddr (readOperand s) .readSettle s
  simp only [positionFits, hm, Bool.and_eq_true] at hpos
  refine h.after_driveAddr hd hv (by rw [hm]; rfl) rfl ?_
  change (atRead _ && s.ddir == .input && readOperand s == readOperand _) = true
  simp [hc.atRead_eq, hc.readOperand_eq, hpos]

/-- The address step of selectBank drives 0x2000 (R131). -/
theorem State.Legal.after_selectAddrStep (hm : s.micro = .writeAddr) :
    (driveAddr bankSelectAddr .writeSettle s).Legal := by
  have hpos := h.positionOk
  simp only [positionFits, hm] at hpos
  refine h.after_driveAddr hd hv (by rw [hm]; rfl) rfl ?_
  change (s.phase == .select && s.ddir == .output && bankSelectAddr == bankSelectAddr) = true
  simpa using hpos

/-- The drive step of selectBank puts BANK on the data lines (R132). -/
theorem State.Legal.after_selectData (hm : s.micro = .writeDrive) :
    (driveData (writeOperand s) .pulseWrite s).Legal := by
  have hpos := h.positionOk
  have hz : s.settleCnt = 0 := h.settleOk.2 (by rw [hm]; rfl)
  simp only [positionFits, hm] at hpos
  refine h.of_busStep hd hv (sameControl_driveData _ _ s) rfl rfl (by rw [hm]; rfl) ?_
    ⟨h.settleOk.1, fun _ => hz⟩
  change (s.phase == .select && s.ddir == .output && s.addr == bankSelectAddr &&
    writeOperand s == writeOperand s) = true
  simpa using hpos

/-- SetMode(Write) opens the Write pulse (R131, R133). -/
theorem State.Legal.after_selectPulse (hm : s.micro = .pulseWrite) : (selectPulse s).Legal := by
  have hpos := h.positionOk
  simp only [positionFits, hm] at hpos
  obtain ⟨⟨⟨hphase, hddir⟩, haddr⟩, hdout⟩ : ((s.phase = .select ∧ s.ddir = .output) ∧
    s.addr = bankSelectAddr) ∧ s.dout = writeOperand s := by simpa using hpos
  refine h.of_sameControl hd hv (sameControl_selectPulse s) ⟨fun _ => rfl, fun _ => rfl⟩ hpos
    ⟨Nat.le_refl _, fun hn => Bool.noConfusion hn⟩ fun _ => ?_
  rw [bankReg_selectPulse haddr hddir, hdout, writeOperand]

/-! ### The steps between two primitives -/

/-- `Next()` (R150 to R153). -/
theorem State.Legal.after_nextEdge (hm : s.micro = .none) (hn : nextEdge s = .next t) : t.Legal := by
  have hb : BusAtRest s := h.busAtRest hm
  have hcmd := h.cmdOk hd
  have hi := h.iteratorOk
  rcases nextEdge_next hn with ⟨ha, -, rfl⟩ | ⟨hp, -, rfl⟩ | ⟨-, rfl⟩ | ⟨hp, -, rfl⟩ |
    ⟨hp, -, hlt, rfl⟩ | ⟨hp, -, rfl⟩
  · exact h.after_driveDir hd hv hm rfl (Bool.and_eq_true_iff.mpr ⟨ha, rfl⟩)
  · exact h.after_driveDir hd hv hm rfl (Bool.and_eq_true_iff.mpr ⟨beq_iff_eq.mpr hp, rfl⟩)
  · exact h.after_endCommand hv hm
  · simp only [hp] at hcmd
    exact BusAtRest.legal_executing { hb with } hd hcmd (h.statusOk hd) rfl (by simp [hv])
      nofun
  · simp only [hp] at hcmd
    simp only [iteratorFits, hp, Bool.and_eq_true] at hi
    exact BusAtRest.legal_executing { hb with } hd hcmd (h.statusOk hd)
      (banksResolved_succ hi.2 hlt rfl rfl rfl) (by simp [hv]) nofun
  · have hne : s.phase ≠ .none := by rcases hp with hp | ⟨hp, -⟩ <;> simp [hp]
    exact BusAtRest.legal_executing { hb with } hd ⟨hcmd.1, phaseFits_done hcmd.2 hne⟩
      (h.statusOk hd) rfl (by simp [hv]) nofun

/-! ### The sample step -/

/-- The ROM-size code is resolved, or the region ends with abort (R153, R154, R155). -/
theorem State.Legal.after_resolveBanks (hm : s.micro = .readSample) (hp : s.phase = .romSize)
    (code : Byte) : (resolveBanks code (sampleBus s)).Legal := by
  have hb := h.busAtRest_sampleBus hm
  have hcmd := h.cmdOk hd
  rcases resolveBanks_cases code (sampleBus s) with ⟨n, hn, he⟩ | ⟨-, he⟩ <;> rw [he]
  · exact BusAtRest.legal_executing { hb with } hd
      (by rw [hp] at hcmd; exact hcmd) (h.statusOk hd) (banksResolved_first hn rfl)
      (by simp [sampleBus, hv]) nofun
  · exact BusAtRest.legal_executing { hb with } hd
      ⟨hcmd.1, phaseFits_done hcmd.2 (by simp [hp])⟩ (h.statusOk hd) rfl
      (by simp [sampleBus, hv]) nofun

/-- The sample step and what the iterator does with the value (R151 to R154). -/
theorem State.Legal.after_sampleEdge (hm : s.micro = .readSample) (hn : sampleEdge s = .next t) :
    t.Legal := by
  rcases sampleEdge_next hn with ⟨hp, rfl⟩ | ⟨hp, rfl⟩ | ⟨hp, rfl⟩
  · have hcmd := h.cmdOk hd
    have hb := h.busAtRest_sampleBus hm
    exact BusAtRest.legal_executing { hb with } hd
      ⟨hcmd.1, phaseFits_done hcmd.2 (by simp [hp])⟩ (h.statusOk hd) rfl (by simp) nofun
  · exact h.after_returnNext hd hm hp _
  · exact h.after_resolveBanks hd hv hm hp _

/-! ### Every step -/

/-- An Execute step keeps the legal states (R33). -/
theorem State.Legal.after_runEdge (hr : runEdge s = .next t) : t.Legal := by
  have hpos := h.positionOk
  rcases runEdge_next hr with ⟨hm, hn⟩ | ⟨hm, rfl⟩ | ⟨hm, rfl⟩ | ⟨hm, hn⟩ | ⟨hm, rfl⟩ | ⟨hm, rfl⟩ |
    ⟨hm, rfl⟩ | ⟨hm, rfl⟩ | ⟨hm, rfl⟩ | ⟨hm, rfl⟩
  · exact h.after_nextEdge hd hv hm hn
  · exact h.after_readAddrStep hd hv hm
  · simp only [positionFits, hm] at hpos
    exact h.after_settleEdge hd hv (by rw [hm]; rfl) (by rw [hm]; rfl) hpos
  · exact h.after_sampleEdge hd hv hm hn
  · exact h.after_selectAddrStep hd hv hm
  · simp only [positionFits, hm] at hpos
    exact h.after_settleEdge hd hv (by rw [hm]; rfl) (by rw [hm]; rfl) hpos
  · exact h.after_selectData hd hv hm
  · exact h.after_selectPulse hd hv hm
  · simp only [positionFits, hm] at hpos
    exact h.after_settleEdge hd hv (by rw [hm]; rfl) (by rw [hm]; rfl) hpos
  · exact h.after_selectEnd hd hm

end

/-- Every step keeps the legal states. -/
theorem State.Legal.after_step (h : s.Legal) (hs : step s = .next t) : t.Legal := by
  have ha : (advanceInputs s).Legal := h.after_advanceInputs
  rcases step_next hs with ⟨-, rfl⟩ | ⟨-, hd, ⟨c, -, he⟩ | ⟨-, rfl⟩⟩ |
    ⟨-, hd, ⟨-, -, rfl⟩ | ⟨-, -, rfl⟩ | ⟨hv, hr⟩⟩
  · exact ha.after_resetEdge
  · exact (ha.after_takeByte c).after_exec hd he
  · exact ha.after_wait
  · exact ha.after_byteTaken hd
  · exact ha.after_wait
  · exact ha.after_runEdge hd hv hr

/-! ### The frame of the Execute steps -/

/-- CMD and the parameters hold over every Execute step (R37). -/
theorem runEdge_keeps_cmd (hr : runEdge s = .next t) : t.cmd = s.cmd ∧ t.params = s.params := by
  have hkept {u : State} (hc : SameControl s u) : u.cmd = s.cmd ∧ u.params = s.params :=
    ⟨hc.cmd, hc.params⟩
  rcases runEdge_next hr with ⟨-, hn⟩ | ⟨-, rfl⟩ | ⟨-, rfl⟩ | ⟨-, hn⟩ | ⟨-, rfl⟩ | ⟨-, rfl⟩ |
    ⟨-, rfl⟩ | ⟨-, rfl⟩ | ⟨-, rfl⟩ | ⟨-, rfl⟩
  · rcases nextEdge_next hn with ⟨-, -, rfl⟩ | ⟨-, -, rfl⟩ | ⟨-, rfl⟩ | ⟨-, -, rfl⟩ |
      ⟨-, -, -, rfl⟩ | ⟨-, -, rfl⟩ <;> exact ⟨rfl, rfl⟩
  · exact hkept (sameControl_driveAddr _ _ s)
  · exact hkept (sameControl_settleEdge _ s)
  · rcases sampleEdge_next hn with ⟨-, rfl⟩ | ⟨-, rfl⟩ | ⟨-, rfl⟩
    · exact ⟨rfl, rfl⟩
    · exact ⟨rfl, rfl⟩
    · rcases resolveBanks_cases (sampledByte s) (sampleBus s) with ⟨n, -, he⟩ | ⟨-, he⟩ <;>
        rw [he] <;> exact ⟨rfl, rfl⟩
  · exact hkept (sameControl_driveAddr _ _ s)
  · exact hkept (sameControl_settleEdge _ s)
  · exact hkept (sameControl_driveData _ _ s)
  · exact hkept (sameControl_selectPulse s)
  · exact hkept (sameControl_settleEdge _ s)
  · exact ⟨rfl, rfl⟩

/-- `t` differs from `s` as a step of MemRead before its sample may: the control registers, MODE, DOUT and
the environment are the same (R103). -/
structure ReadStep (s t : State) : Prop extends SameControl s t where
  atRead : atRead s = true
  mode : t.mode = s.mode
  dout : t.dout = s.dout
  env : t.env = s.env

/-- The Execute steps of every command but DUMP: a step of MemRead, the sample of a Single or a Range region,
the end of the region, or the end of the command (R151, R152, R181). -/
theorem State.Legal.runEdge_not_dump (h : s.Legal) (hd : s.dstate = .executing)
    (hc : s.cmd ≠ 0x07#8) (hr : runEdge s = .next t) :
    ReadStep s t ∨
    (s.phase = .single ∧ t = offerByte (sampledByte s) (finish .ended (sampleBus s))) ∨
    (s.phase = .range ∧
      (t = returnNext (sampledByte s) (sampleBus s) ∨ t = finish .ended s)) ∨
    t = endCommand s := by
  have hpos := h.positionOk
  obtain ⟨hbase, hrom, hsel, hbank⟩ := phase_of_not_dump (h.cmdOk hd).2 hc
  rcases runEdge_next hr with ⟨-, hn⟩ | ⟨hm, rfl⟩ | ⟨hm, rfl⟩ | ⟨-, hn⟩ | ⟨hm, -⟩ | ⟨hm, -⟩ |
    ⟨hm, -⟩ | ⟨hm, -⟩ | ⟨hm, -⟩ | ⟨hm, -⟩
  case inl =>
    rcases nextEdge_next hn with ⟨ha, -, rfl⟩ | ⟨hp, -⟩ | ⟨-, rfl⟩ | ⟨hp, -⟩ | ⟨hp, -⟩ |
      ⟨hp | ⟨hp, -⟩, -, rfl⟩
    · exact .inl ⟨sameControl_driveDir _ _ s, ha, rfl, rfl, rfl⟩
    · exact absurd hp hsel
    · exact .inr (.inr (.inr rfl))
    · exact absurd hp hbase
    · exact absurd hp hbank
    · exact .inr (.inr (.inl ⟨hp, .inr rfl⟩))
    · exact absurd hp hbank
  case inr.inl =>
    simp only [positionFits, hm, Bool.and_eq_true] at hpos
    exact .inl ⟨sameControl_driveAddr _ _ s, hpos.1, rfl, rfl, rfl⟩
  case inr.inr.inl =>
    simp only [positionFits, hm, Bool.and_eq_true] at hpos
    obtain ⟨⟨hread, -⟩, -⟩ := hpos
    have hsame := sameControl_settleEdge .readSample s
    rcases settleEdge_cases .readSample s with ⟨-, he⟩ | ⟨-, he⟩ <;> rw [he] at hsame ⊢ <;>
      exact .inl ⟨hsame, hread, rfl, rfl, rfl⟩
  case inr.inr.inr.inl =>
    rcases sampleEdge_next hn with ⟨hp, rfl⟩ | ⟨hp | hp | hp, rfl⟩ | ⟨hp, rfl⟩
    · exact .inr (.inl ⟨hp, rfl⟩)
    · exact .inr (.inr (.inl ⟨hp, .inl rfl⟩))
    · exact absurd hp hbase
    · exact absurd hp hbank
    · exact absurd hp hrom
  all_goals
    simp [positionFits, hm, hsel] at hpos

/-- Only DUMP writes MODE, DOUT, BANK, NBANKS, ROMCODE and END once started, and only DUMP reaches the
cartridge (R186 to R192). -/
theorem State.Legal.runEdge_frame_not_dump (h : s.Legal) (hd : s.dstate = .executing)
    (hc : s.cmd ≠ 0x07#8) (hr : runEdge s = .next t) :
    t.mode = s.mode ∧ t.dout = s.dout ∧ t.bank = s.bank ∧ t.nbanks = s.nbanks ∧
      t.romcode = s.romcode ∧ t.endAddr = s.endAddr ∧ t.env.cart = s.env.cart := by
  rcases h.runEdge_not_dump hd hc hr with hs | ⟨-, rfl⟩ | ⟨-, rfl | rfl⟩ | rfl
  case inl => exact ⟨hs.mode, hs.dout, hs.bank, hs.nbanks, hs.romcode, hs.endAddr, by rw [hs.env]⟩
  all_goals exact ⟨rfl, rfl, rfl, rfl, rfl, rfl, rfl⟩

/-- The only Execute step of PROBE is `End()`: it has no region to read (R185). -/
theorem State.Legal.runEdge_probe (h : s.Legal) (hd : s.dstate = .executing) (hc : s.cmd = 0x01#8)
    (hr : runEdge s = .next t) : t = endCommand s := by
  have hp : s.phase = .none := by
    have hfit := (h.cmdOk hd).2
    rw [hc] at hfit
    exact phase_of_probe hfit
  rcases h.runEdge_not_dump hd (by rw [hc]; decide) hr with hs | ⟨hp', -⟩ | ⟨hp', -⟩ | he
  · exact absurd hp (phase_of_atRead hs.atRead)
  · simp [hp] at hp'
  · simp [hp] at hp'
  · exact he

/-- The commands 0x01 to 0x04 leave CUR and STATUS (R185 to R188). -/
theorem State.Legal.runEdge_frame_le_four (h : s.Legal) (hd : s.dstate = .executing)
    (hc : s.cmd ≤ 0x04#8) (hr : runEdge s = .next t) : t.cur = s.cur ∧ t.status = s.status := by
  have hne : s.cmd ≠ 0x07#8 := fun he => absurd (he ▸ hc) (by decide)
  rcases h.runEdge_not_dump hd hne hr with hs | ⟨-, rfl⟩ | ⟨hp, -⟩ | rfl
  · exact ⟨hs.cur, hs.status⟩
  · exact ⟨rfl, rfl⟩
  · exact absurd hp (phase_of_le_four (h.cmdOk hd).2 hc)
  · have hoff : s.status = .off := by
      cases hs : s.status with
      | off => rfl
      | blinking =>
        have hge := (h.statusOk hd).mp hs
        bv_omega
    exact ⟨rfl, hoff.symm⟩

/-! ### Reset -/

/-- Every state R38 allows after reset is legal. -/
theorem State.AfterReset.legal (h : s.AfterReset) : s.Legal :=
  BusAtRest.legal_idle ⟨h.paramsOk, h.cellsOk, h.mode, h.micro, h.settleCnt⟩ h.dstate h.phase
    h.rspValid h.status

/-- The model's own state after reset is one that R38 allows. -/
theorem afterReset_reset : State.reset.AfterReset where
  paramsOk := params_admissible
  cellsOk := rfl
  mode := rfl
  ddir := rfl
  dstate := rfl
  status := rfl
  phase := rfl
  rspValid := rfl
  settleCnt := rfl
  micro := rfl
  trace := rfl

/-- The empty trace obeys the settle rule. -/
theorem settleRule_nil : SettleRule [] where
  samples _ _ _ _ h := by simp at h
  drives _ _ _ h := by simp at h
  pulses _ _ _ h := by simp at h

/-- The empty trace obeys the address rule. -/
theorem addressRule_nil : AddressRule [] where
  driven _ h := by simp at h
  samples _ _ _ _ h := by simp at h
  drives _ _ _ h := by simp at h

/-- The empty trace obeys the response rule. -/
theorem responseRule_nil : ResponseRule [] := fun _ _ _ h => by simp at h

theorem State.AfterReset.settleSafe (h : s.AfterReset) : s.SettleSafe where
  legal := h.legal
  rule := h.trace ▸ settleRule_nil
  sampleReady hm := by simp [h.micro] at hm
  driveReady hm := by simp [h.micro] at hm
  pulseReady hm := by simp [h.micro] at hm

theorem State.AfterReset.addressSafe (h : s.AfterReset) : s.AddressSafe where
  legal := h.legal
  rule := h.trace ▸ addressRule_nil
  current hm := by simp [h.micro, addressed] at hm

theorem State.AfterReset.responseSafe (h : s.AfterReset) : s.ResponseSafe where
  legal := h.legal
  rule := h.trace ▸ responseRule_nil
  waiting hv := by simp [h.rspValid] at hv

/-! ### The ports -/

/-- The two address ports carry the two bytes of ADDR (R23, R56). -/
theorem addrHigh_append_addrLow (s : State) : s.addrHigh ++ s.addrLow = s.addr := by
  unfold State.addrHigh State.addrLow
  rw [BitVec.extractLsb'_append_extractLsb'_eq_extractLsb' (start₁ := 0) (start₂ := 8) rfl]
  exact BitVec.extractLsb'_eq_self

/-- cmd_ready is 1 exactly in Idle with no reset (R36). -/
theorem cmdReady_iff (s : State) :
    s.cmdReady = true ↔ s.dstate = .idle ∧ s.env.pins.rst = false := by
  simp [State.cmdReady]

/-- The data port carries DOUT while DDIR = Out (R24, R25). -/
theorem dataPort_output (h : s.ddir = .output) :
    s.dataEnable = true ∧ s.dataLines = some s.dout := by
  simp [State.dataEnable, State.dataLines, h]

/-- The block does not drive the data port while DDIR = In (R24). -/
theorem dataPort_input (h : s.ddir = .input) : s.dataEnable = false ∧ s.dataLines = none := by
  simp [State.dataEnable, State.dataLines, h]

end Sys2Proof.Machine

/-! ### The obligations -/

namespace Sys2Proof.Proofs.StateFamily

open Sys2Proof.Machine

/-- Settles O35, by the kind of edge: reset and `End()` leave the block at rest, an accepting edge starts a
command from there, and each micro-step and each turn of `Next()` hands on what the next position asks for. -/
theorem legalKept : Obligations.LegalKept :=
  fun _ _ h hs => h.after_step hs

/-- Settles O57: an edge at which a response byte waits changes neither the iterator nor the bus, and the
others are the Execute steps, framed by the phases of the command. -/
theorem executeStepFrame : Obligations.ExecuteStepFrame := by
  intro s t h hrst hd hs
  have ha : (advanceInputs s).Legal := h.after_advanceInputs
  have hcart : (advanceInputs s).env.cart = s.env.cart := advance_cart _
  rcases step_next hs with ⟨hr, -⟩ | ⟨-, hi, -⟩ | ⟨-, -, ⟨-, -, rfl⟩ | ⟨-, -, rfl⟩ | ⟨-, hr⟩⟩
  · simp [hrst] at hr
  · simp [hd] at hi
  · simp
  · simp
  · obtain ⟨hcmd, hparams⟩ := runEdge_keeps_cmd hr
    refine ⟨hcmd, hparams, fun hc => ?_, fun hc => ?_, fun hc => ha.runEdge_frame_le_four hd hc hr⟩
    · rw [← hcart]
      exact ha.runEdge_frame_not_dump hd hc hr
    · rw [ha.runEdge_probe hd hc hr]
      exact ⟨rfl, rfl, rfl⟩

/-- Settles O4: the values of R38, read off the state after reset. -/
theorem resetValues : Obligations.ResetValues :=
  ⟨rfl, rfl, rfl, rfl, rfl, rfl, rfl, rfl, rfl⟩

/-- Settles O5: the block at rest is legal, and its empty trace breaks no rule. -/
theorem resetIsSafe : Obligations.ResetIsSafe :=
  ⟨afterReset_reset, fun _ h => ⟨h.legal, h.settleSafe, h.addressSafe, h.responseSafe⟩⟩

/-- Settles O15, by the shapes an accepting edge has. -/
theorem instructionStartFrame : Obligations.InstructionStartFrame := by
  intro i s t h
  rcases exec_next h with ⟨rfl, rfl⟩ | ⟨hi, rfl⟩ | ⟨hi, rfl⟩ | ⟨rfl, rfl⟩ | ⟨⟨b, rfl⟩, rfl⟩
  · simp
  · rcases hi with rfl | rfl | rfl <;> simp [initSingle]
  · rcases hi with rfl | rfl | rfl <;> simp [initRange]
  · simp [initBanked]
  · simp

/-- Settles O16, by the two modes. -/
theorem strobesFollowMode : Obligations.StrobesFollowMode := by
  intro s
  refine ⟨by simp [State.rd], by simp [State.wr], ?_, rfl, rfl⟩
  cases hm : s.mode <;> simp [State.rd, State.wr, hm]

/-- Settles O17, port by port. -/
theorem portsFollowRegisters : Obligations.PortsFollowRegisters :=
  fun s => ⟨addrHigh_append_addrLow s, dataPort_output, dataPort_input, rfl, rfl,
    by simp [State.statusOut], cmdReady_iff s⟩

end Sys2Proof.Proofs.StateFamily
end

section
/-! PROOFS. The family of spec/20_memory.md: where an address lies in the cartridge, the events a step appends,
and the address and the response rule of every trace. -/

namespace Sys2Proof.Machine

variable {s t : State}

/-! ### Locations -/

/-- Outside the bank window an address names one location, whatever bank is selected (R52). -/
theorem location_outside {a : Word16} (h : inBankWindow a = false) (b : Byte) :
    location b a = a.toNat := by
  simp [location, h]

/-- In the bank window the bank is part of the location (R50, R52). -/
theorem location_window {a : Word16} (h : inBankWindow a = true) (b : Byte) :
    location b a = b.toNat * 0x10000 + a.toNat := by
  simp [location, h]

/-- In the bank window two banks name different locations (R52). -/
theorem location_window_injective {a : Word16} (h : inBankWindow a = true) {b b' : Byte}
    (he : location b a = location b' a) : b = b' := by
  rw [location_window h, location_window h] at he
  exact BitVec.eq_of_toNat_eq (by omega)

/-! ### Rules that speak of each event and the trace before it -/

/-- `P` holds of every event of the trace `t`, with the part of `t` before it. -/
def EveryEvent (P : List Event → Event → Prop) (t : List Event) : Prop :=
  ∀ before e after, t = before ++ e :: after → P before e

/-- A rule holds of a longer trace where it holds of what was there and of each new event. -/
theorem EveryEvent.append {P : List Event → Event → Prop} {t es : List Event} (h : EveryEvent P t)
    (hnew : ∀ mid e after, es = mid ++ e :: after → P (t ++ mid) e) : EveryEvent P (t ++ es) := by
  intro before e after he
  rcases List.append_eq_append_iff.mp he with ⟨mid, rfl, hes⟩ | ⟨rest, rfl, hrest⟩
  · exact hnew mid e after hes
  · cases rest with
    | nil =>
      have hp := hnew [] e after (by simpa using hrest.symm)
      simpa using hp
    | cons x rest =>
      obtain ⟨rfl, -⟩ : e = x ∧ after = rest ++ es := by simpa using hrest
      exact h before e rest rfl

/-- A rule holds of a trace with one more event where it holds of that event. -/
theorem EveryEvent.concat {P : List Event → Event → Prop} {t : List Event} {e : Event}
    (h : EveryEvent P t) (he : P t e) : EveryEvent P (t ++ [e]) := by
  refine h.append fun mid x after hx => ?_
  obtain ⟨rfl, rfl, -⟩ : mid = [] ∧ x = e ∧ after = [] := by
    cases mid with
    | nil => simpa [eq_comm] using hx
    | cons y mid => simp at hx
  simpa using he

/-- A rule holds of a longer trace where it holds of each new event whatever comes before. -/
theorem EveryEvent.append_of_forall {P : List Event → Event → Prop} {t es : List Event}
    (h : EveryEvent P t) (hes : ∀ e ∈ es, ∀ before, P before e) : EveryEvent P (t ++ es) :=
  h.append fun mid e after he => hes e (by simp [he]) (t ++ mid)

/-- What the address rule asks of an event (R14, R51, R134). -/
def addressAllows (before : List Event) : Event → Prop
  | .addr a => a ≤ 0x7FFF#16
  | .sample a _ => lastAddr before = some a
  | .drive _ => lastAddr before = some bankSelectAddr
  | _ => True

/-- The address rule speaks of each event by itself. -/
theorem addressRule_iff (t : List Event) : AddressRule t ↔ EveryEvent addressAllows t := by
  constructor
  · intro h before e after he
    cases e with
    | addr a => exact h.driven a (by simp [he])
    | sample a v => exact h.samples before a v after he
    | drive v => exact h.drives before v after he
    | _ => trivial
  · intro h
    refine ⟨fun a ha => ?_, fun before a v after he => h before _ after he,
      fun before v after he => h before _ after he⟩
    obtain ⟨before, after, he⟩ := List.append_of_mem ha
    exact h before _ after he

/-- What the response rule asks of an event (R63). -/
def responseAllows (before : List Event) : Event → Prop
  | .send v => sentFrom before v
  | _ => True

/-- The response rule speaks of each event by itself. -/
theorem responseRule_iff (t : List Event) : ResponseRule t ↔ EveryEvent responseAllows t := by
  constructor
  · intro h before e after he
    cases e with
    | send v => exact h before v after he
    | _ => trivial
  · exact fun h before v after he => h before _ after he

/-! ### The address last driven -/

/-- The address last driven in two traces in a row. -/
theorem lastAddr_append (t u : List Event) : lastAddr (t ++ u) = (lastAddr u).or (lastAddr t) := by
  induction t with
  | nil => simp [lastAddr]
  | cons e rest ih =>
    simp only [List.cons_append, lastAddr, ih]
    cases lastAddr u <;> rfl

theorem lastAddr_concat_addr (t : List Event) (a : Word16) : lastAddr (t ++ [.addr a]) = some a := by
  rw [lastAddr_append]; rfl

/-! ### Quiet events -/

/-- The event names no address, no value on the data lines and no byte sent: neither the address rule nor the
response rule asks anything of it. -/
def Event.isQuiet : Event → Bool
  | .accept _ => true
  | .dir _ => true
  | .settle => true
  | .mode _ => true
  | .status _ => true
  | .addr _ => false
  | .sample _ _ => false
  | .drive _ => false
  | .send _ => false

theorem addressAllows_quiet {e : Event} (h : e.isQuiet = true) (before : List Event) :
    addressAllows before e := by
  cases e with
  | addr a | sample a v | drive v => cases h
  | _ => trivial

theorem responseAllows_quiet {e : Event} (h : e.isQuiet = true) (before : List Event) :
    responseAllows before e := by
  cases e with
  | send v => cases h
  | _ => trivial

/-- Quiet events drive no address. -/
theorem lastAddr_append_quiet {es : List Event} (h : ∀ e ∈ es, e.isQuiet = true) (t : List Event) :
    lastAddr (t ++ es) = lastAddr t := by
  have hnone : lastAddr es = none := by
    induction es with
    | nil => rfl
    | cons e rest ih =>
      obtain ⟨he, hrest⟩ := List.forall_mem_cons.mp h
      cases e with
      | addr a => cases he
      | _ => simp [lastAddr, ih hrest]
  simp [lastAddr_append, hnone]

/-! ### What a step appends to the trace -/

/-- `t` comes after `s` by a step that emits only quiet events. The cartridge's contents are kept, the sequencer
comes to no position past an address step, and a byte that waits waited before or is PROBE's. -/
structure QuietStep (s t : State) : Prop where
  params : t.params = s.params
  cells : t.env.cart.cells = s.env.cart.cells
  events : ∃ es, t.trace = s.trace ++ es ∧ ∀ e ∈ es, e.isQuiet = true
  addressed : addressed t.micro = true → addressed s.micro = true ∧ t.addr = s.addr
  waiting : t.rspValid = true →
    (s.rspValid = true ∧ t.rsp = s.rsp ∧ (s.dstate = .executing → t.trace = s.trace)) ∨
      (t.rsp = probeValue ∧ t.trace = s.trace ++ [.accept 0x01#8])

/-- The byte that decodes to PROBE is 0x01 (R72). -/
theorem decodeByte_eq_probe {c : Byte} (h : decodeByte c = .probe) : c = 0x01#8 := by
  unfold decodeByte at h
  split at h
  next hi =>
    subst h
    obtain ⟨l, l', he, -⟩ := List.lookup_eq_some_iff.mp hi
    have hm : (c, Instr.probe) ∈ commandMap := by simp [he]
    simpa [commandMap] using hm
  next => cases h

theorem quietStep_wait (s : State) : QuietStep s (wait s) where
  params := rfl
  cells := rfl
  events := ⟨[], by simp⟩
  addressed h := ⟨h, rfl⟩
  waiting h := .inl ⟨h, rfl, fun _ => rfl⟩

theorem quietStep_resetEdge (s : State) : QuietStep s (resetEdge s) where
  params := rfl
  cells := rfl
  events := ⟨[], by simp [resetEdge]⟩
  addressed h := by simp [resetEdge, Machine.addressed] at h
  waiting h := by simp [resetEdge] at h

/-- The start of a command emits at most the event that opens the status bracket (R183). -/
theorem exec_events {i : Instr} (h : exec i s = .next t) :
    ∃ es, t.trace = s.trace ++ es ∧ ∀ e ∈ es, e.isQuiet = true := by
  rcases exec_next h with ⟨-, rfl⟩ | ⟨-, rfl⟩ | ⟨-, rfl⟩ | ⟨-, rfl⟩ | ⟨-, rfl⟩
  · exact ⟨[], by simp⟩
  · exact ⟨[], by simp [initSingle]⟩
  · exact ⟨[.status .blinking], rfl, by simp [Event.isQuiet]⟩
  · exact ⟨[.status .blinking], rfl, by simp [Event.isQuiet]⟩
  · exact ⟨[], by simp⟩

/-- Every accepting edge is quiet, and only PROBE's puts a byte in RSP (R180, R185). -/
theorem quietStep_accept {c : Byte} (hd : s.dstate = .idle)
    (h : exec (decodeByte c) (takeByte c s) = .next t) : QuietStep s t := by
  obtain ⟨es, htrace, hes⟩ := exec_events h
  obtain ⟨hparams, -, haddr, -, -, -, -, -, -, -, hmicro, henv, hrsp, -⟩ :=
    Proofs.StateFamily.instructionStartFrame _ _ _ h
  refine ⟨hparams, by rw [henv]; rfl, ⟨.accept c :: es, by simp [htrace], ?_⟩,
    fun ha => ⟨hmicro ▸ ha, haddr⟩, fun hv => ?_⟩
  · exact List.forall_mem_cons.mpr ⟨rfl, hes⟩
  · by_cases hi : decodeByte c = .probe
    · obtain rfl := decodeByte_eq_probe hi
      cases h
      exact .inr ⟨rfl, rfl⟩
    · obtain ⟨hbyte, hvalid⟩ := hrsp hi
      exact .inl ⟨hvalid ▸ hv, hbyte, fun he => by simp [hd] at he⟩

/-- An Execute step with no byte waiting before or after it is quiet where its events are. -/
theorem QuietStep.of_execute (hv : t.rspValid = false) (hp : t.params = s.params)
    (hc : t.env.cart.cells = s.env.cart.cells) (es : List Event) (ht : t.trace = s.trace ++ es)
    (hes : ∀ e ∈ es, e.isQuiet = true)
    (ha : Machine.addressed t.micro = true → Machine.addressed s.micro = true ∧ t.addr = s.addr) :
    QuietStep s t :=
  ⟨hp, hc, ⟨es, ht, hes⟩, ha, fun he => by simp [hv] at he⟩

theorem bracketEnd_quiet (x : Status) : ∀ e ∈ bracketEnd x, e.isQuiet = true := by
  cases x <;> simp [bracketEnd, Event.isQuiet]

/-- `Next()` between two primitives is quiet: it drives at most the direction of the data lines (R150). -/
theorem quietStep_nextEdge (hv : s.rspValid = false) (h : nextEdge s = .next t) : QuietStep s t := by
  rcases nextEdge_next h with ⟨-, -, rfl⟩ | ⟨-, -, rfl⟩ | ⟨-, rfl⟩ | ⟨-, -, rfl⟩ | ⟨-, -, -, rfl⟩ |
    ⟨-, -, rfl⟩
  · exact .of_execute hv rfl rfl [.dir .input] rfl (by simp [Event.isQuiet]) nofun
  · exact .of_execute hv rfl rfl [.dir .output] rfl (by simp [Event.isQuiet]) nofun
  · exact .of_execute hv rfl rfl _ rfl (bracketEnd_quiet _) fun ha => ⟨ha, rfl⟩
  all_goals exact .of_execute hv rfl rfl [] (by simp) (by simp) fun ha => ⟨ha, rfl⟩

/-- An edge of a settle wait emits at most its Settle (R107). -/
theorem quietStep_settleEdge (hv : s.rspValid = false) {m : Micro}
    (hm : addressed m = true → addressed s.micro = true) : QuietStep s (settleEdge m s) := by
  rcases settleEdge_cases m s with ⟨-, he⟩ | ⟨-, he⟩ <;> rw [he]
  · exact .of_execute hv rfl rfl [.settle] rfl (by simp [Event.isQuiet]) fun ha => ⟨hm ha, rfl⟩
  · exact .of_execute hv rfl rfl [] (by simp) (by simp) fun ha => ⟨ha, rfl⟩

theorem quietStep_selectPulse (hv : s.rspValid = false) : QuietStep s (selectPulse s) :=
  .of_execute hv rfl (sameControl_selectPulse s).cells [.mode .write] rfl (by simp [Event.isQuiet])
    nofun

theorem quietStep_selectEnd (hv : s.rspValid = false) : QuietStep s (selectEnd s) :=
  .of_execute hv rfl (by simp [selectEnd, setMode]) [.mode .read] rfl (by simp [Event.isQuiet]) nofun

/-- `t` comes after `s` by one of the micro-steps that put an address or a value into the trace: the address
step, the drive step and the sample step of a primitive (R103, R105). -/
inductive BusDataStep (s t : State) : Prop where
  | readAddr (hm : s.micro = .readAddr) (ht : t = driveAddr (readOperand s) .readSettle s)
  | readSample (hm : s.micro = .readSample) (ht : sampleEdge s = .next t)
  | writeAddr (hm : s.micro = .writeAddr) (ht : t = driveAddr bankSelectAddr .writeSettle s)
  | writeDrive (hm : s.micro = .writeDrive) (ht : t = driveData (writeOperand s) .pulseWrite s)

/-- An Execute step is quiet but for the micro-steps that put an address or a value into the trace. -/
theorem runEdge_quiet_or (hv : s.rspValid = false) (h : runEdge s = .next t) :
    QuietStep s t ∨ BusDataStep s t := by
  rcases runEdge_next h with ⟨-, hn⟩ | ⟨hm, ht⟩ | ⟨hm, rfl⟩ | ⟨hm, hn⟩ | ⟨hm, ht⟩ | ⟨hm, rfl⟩ |
    ⟨hm, ht⟩ | ⟨-, rfl⟩ | ⟨-, rfl⟩ | ⟨-, rfl⟩
  · exact .inl (quietStep_nextEdge hv hn)
  · exact .inr (.readAddr hm ht)
  · exact .inl (quietStep_settleEdge hv fun _ => by rw [hm]; rfl)
  · exact .inr (.readSample hm hn)
  · exact .inr (.writeAddr hm ht)
  · exact .inl (quietStep_settleEdge hv fun _ => by rw [hm]; rfl)
  · exact .inr (.writeDrive hm ht)
  · exact .inl (quietStep_selectPulse hv)
  · exact .inl (quietStep_settleEdge hv nofun)
  · exact .inl (quietStep_selectEnd hv)

/-- A step is quiet, or it sends the byte that waits, or it puts an address or a value into the trace. -/
theorem step_quiet_or (h : step s = .next t) :
    QuietStep (advanceInputs s) t ∨
    (s.rspValid = true ∧ t = byteTaken (advanceInputs s)) ∨
    (s.rspValid = false ∧ BusDataStep (advanceInputs s) t) := by
  rcases step_next h with ⟨-, rfl⟩ | ⟨-, hd, ⟨c, -, he⟩ | ⟨-, rfl⟩⟩ |
    ⟨-, -, ⟨hv, -, rfl⟩ | ⟨-, -, rfl⟩ | ⟨hv, hr⟩⟩
  · exact .inl (quietStep_resetEdge _)
  · exact .inl (quietStep_accept hd he)
  · exact .inl (quietStep_wait _)
  · exact .inr (.inl ⟨hv, rfl⟩)
  · exact .inl (quietStep_wait _)
  · exact (runEdge_quiet_or (s := advanceInputs s) hv hr).imp_right fun hb => .inr ⟨hv, hb⟩

/-- The sample step appends its Sample, ends the primitive, and the byte that then waits is the sampled one
(R103, R182). -/
theorem sampleEdge_shows (h : sampleEdge s = .next t) :
    t.params = s.params ∧ t.env.cart = s.env.cart ∧ t.micro = .none ∧
      t.trace = s.trace ++ [.sample s.addr (sampledByte s)] ∧
      (s.rspValid = false → t.rspValid = true → t.rsp = sampledByte s) := by
  rcases sampleEdge_next h with ⟨-, rfl⟩ | ⟨-, rfl⟩ | ⟨-, rfl⟩
  · exact ⟨rfl, rfl, rfl, rfl, fun _ _ => rfl⟩
  · exact ⟨rfl, rfl, rfl, rfl, fun _ _ => rfl⟩
  · rcases resolveBanks_cases (sampledByte s) (sampleBus s) with ⟨n, -, he⟩ | ⟨-, he⟩ <;> rw [he] <;>
      exact ⟨rfl, rfl, rfl, rfl, fun hv ht => by simp [sampleBus, hv] at ht⟩

/-! ### The cartridge's contents -/

/-- The micro-steps that put an address or a value into the trace append one event and keep the cartridge. -/
theorem BusDataStep.keeps (h : BusDataStep s t) :
    t.params = s.params ∧ t.env.cart.cells = s.env.cart.cells ∧ ∃ e, t.trace = s.trace ++ [e] := by
  cases h with
  | readAddr _ ht => subst ht; exact ⟨rfl, rfl, _, rfl⟩
  | readSample _ ht =>
    obtain ⟨hp, hc, -, htr, -⟩ := sampleEdge_shows ht
    exact ⟨hp, by rw [hc], _, htr⟩
  | writeAddr _ ht => subst ht; exact ⟨rfl, rfl, _, rfl⟩
  | writeDrive _ ht => subst ht; exact ⟨rfl, rfl, _, rfl⟩

/-- No step writes a parameter or a known byte, and the trace only grows. -/
theorem step_keeps_cells (h : step s = .next t) :
    t.params = s.params ∧ t.env.cart.cells = s.env.cart.cells ∧ ∃ es, t.trace = s.trace ++ es := by
  have hcells : (advanceInputs s).env.cart.cells = s.env.cart.cells := by simp
  rcases step_quiet_or h with hq | ⟨-, rfl⟩ | ⟨-, hb⟩
  · obtain ⟨es, ht, -⟩ := hq.events
    exact ⟨hq.params, hq.cells.trans hcells, es, ht⟩
  · exact ⟨rfl, hcells, _, rfl⟩
  · obtain ⟨hp, hc, e, ht⟩ := hb.keeps
    exact ⟨hp, hc.trans hcells, [e], ht⟩

/-! ### The addresses a region drives -/

@[simp] theorem trunc16_zext17 (a : Word16) : trunc16 (zext17 a) = a := by
  simp [trunc16, zext17]

/-- CUR inside a range is at most the range's last address (R152). -/
theorem trunc16_cur_le {first last : Word16} (h : inRange s first last = true)
    (hl : rangeLeft s = true) : trunc16 s.cur ≤ last := by
  simp only [inRange, rangeLeft, Bool.and_eq_true, beq_iff_eq, decide_eq_true_eq] at h hl
  obtain ⟨⟨rfl, -⟩, -⟩ := h
  simp only [trunc16, zext17] at *
  bv_omega

/-- The address of a Single region lies in the base window (R186 to R188). -/
theorem singleAddr_le (c : Byte) : singleAddr c ≤ 0x7FFF#16 := by
  unfold singleAddr
  split_ifs <;> decide

/-- The Range regions lie in the base window (R189, R190, R192). -/
theorem rangeLast_le (c : Byte) : rangeLast c ≤ 0x7FFF#16 := by
  unfold rangeLast
  split_ifs <;> decide

/-- A read of a legal state is at an address of the cartridge's ROM (R51). -/
theorem State.Legal.readOperand_le (h : s.Legal) (ha : atRead s = true) :
    readOperand s ≤ 0x7FFF#16 := by
  have hi := h.iteratorOk
  cases hp : s.phase with
  | none => simp [atRead, hp] at ha
  | single =>
    have hc : s.cur = zext17 (singleAddr s.cmd) := by simpa [iteratorFits, hp] using hi
    simpa [readOperand, hp, hc] using singleAddr_le s.cmd
  | range =>
    simp only [iteratorFits, atRead, readOperand, hp] at *
    exact BitVec.le_trans (trunc16_cur_le hi ha) (rangeLast_le s.cmd)
  | base =>
    simp only [iteratorFits, atRead, readOperand, hp] at *
    exact BitVec.le_trans (trunc16_cur_le hi ha) (by decide)
  | romSize => simp only [readOperand, hp]; decide
  | select => simp [atRead, hp] at ha
  | bankWin =>
    simp only [iteratorFits, atRead, readOperand, hp, Bool.and_eq_true] at *
    exact trunc16_cur_le hi.1 ha
  | done => simp [atRead, hp] at ha

/-! ### The address rule -/

theorem State.AddressSafe.after_advanceInputs (h : s.AddressSafe) : (advanceInputs s).AddressSafe :=
  ⟨h.legal.after_advanceInputs, h.rule, h.current⟩

/-- A quiet step adds nothing the address rule speaks of. -/
theorem State.AddressSafe.after_quiet (h : s.AddressSafe) (hq : QuietStep s t) (hl : t.Legal) :
    t.AddressSafe := by
  obtain ⟨es, ht, hes⟩ := hq.events
  refine ⟨hl, ?_, fun ha => ?_⟩
  · rw [ht, addressRule_iff]
    exact ((addressRule_iff _).mp h.rule).append_of_forall fun e he =>
      addressAllows_quiet (hes e he)
  · obtain ⟨ha', haddr⟩ := hq.addressed ha
    rw [ht, lastAddr_append_quiet hes, haddr]
    exact h.current ha'

/-- A step that appends one event keeps the address rule where the rule allows the event. -/
theorem State.AddressSafe.after_event (h : s.AddressSafe) (hl : t.Legal) {e : Event}
    (ht : t.trace = s.trace ++ [e]) (he : addressAllows s.trace e)
    (hc : addressed t.micro = true → lastAddr t.trace = some t.addr) : t.AddressSafe := by
  refine ⟨hl, ?_, hc⟩
  rw [ht, addressRule_iff]
  exact ((addressRule_iff _).mp h.rule).concat he

/-- The byte that waits is sent: no address is driven. -/
theorem State.AddressSafe.after_byteTaken (h : s.AddressSafe) (hl : (byteTaken s).Legal) :
    (byteTaken s).AddressSafe :=
  h.after_event hl rfl trivial fun ha => by
    simpa [lastAddr_append, lastAddr] using h.current ha

/-- The address steps drive an address of the ROM or 0x2000, and samples and drives come after it. -/
theorem State.AddressSafe.after_busData (h : s.AddressSafe) (hb : BusDataStep s t) (hl : t.Legal) :
    t.AddressSafe := by
  have hpos := h.legal.positionOk
  cases hb with
  | readAddr hm ht =>
    subst ht
    simp only [positionFits, hm, Bool.and_eq_true] at hpos
    obtain ⟨hread, -⟩ := hpos
    exact h.after_event hl rfl (h.legal.readOperand_le hread) fun _ => lastAddr_concat_addr _ _
  | readSample hm ht =>
    obtain ⟨-, -, hmicro, htr, -⟩ := sampleEdge_shows ht
    exact h.after_event hl htr (h.current (by rw [hm]; rfl)) fun ha => by
      simp [hmicro, addressed] at ha
  | writeAddr hm ht =>
    subst ht
    exact h.after_event (e := .addr bankSelectAddr) hl rfl (by simp [addressAllows, bankSelectAddr])
      fun _ => lastAddr_concat_addr _ _
  | writeDrive hm ht =>
    subst ht
    simp only [positionFits, hm, Bool.and_eq_true, beq_iff_eq] at hpos
    obtain ⟨-, haddr⟩ := hpos
    have hlast : lastAddr s.trace = some s.addr := h.current (by rw [hm]; rfl)
    exact h.after_event (e := .drive (writeOperand s)) hl rfl (hlast.trans (congrArg some haddr)) nofun

/-- Every step keeps the address rule. -/
theorem State.AddressSafe.after_step (h : s.AddressSafe) (hs : step s = .next t) : t.AddressSafe := by
  have hl : t.Legal := h.legal.after_step hs
  have ha := h.after_advanceInputs
  rcases step_quiet_or hs with hq | ⟨-, rfl⟩ | ⟨-, hb⟩
  · exact ha.after_quiet hq hl
  · exact ha.after_byteTaken hl
  · exact ha.after_busData hb hl

/-! ### The response rule -/

theorem State.ResponseSafe.after_advanceInputs (h : s.ResponseSafe) : (advanceInputs s).ResponseSafe :=
  ⟨h.legal.after_advanceInputs, h.rule, h.waiting⟩

/-- A response byte waits only while a command executes (R32). -/
theorem State.Legal.executing_of_rspValid (h : s.Legal) (hv : s.rspValid = true) :
    s.dstate = .executing := by
  cases hd : s.dstate with
  | executing => rfl
  | idle =>
    obtain ⟨-, -, hnone, -⟩ := h.idleOk hd
    simp [hnone] at hv

/-- A quiet step sends nothing, and leaves the trace alone while a byte waits. -/
theorem State.ResponseSafe.after_quiet (h : s.ResponseSafe) (hq : QuietStep s t) (hl : t.Legal) :
    t.ResponseSafe := by
  obtain ⟨es, ht, hes⟩ := hq.events
  refine ⟨hl, ?_, fun hv => ?_⟩
  · rw [ht, responseRule_iff]
    exact ((responseRule_iff _).mp h.rule).append_of_forall fun e he =>
      responseAllows_quiet (hes e he)
  · rcases hq.waiting hv with ⟨hv', hrsp, htr⟩ | ⟨hrsp, htr⟩
    · rw [hrsp, htr (h.legal.executing_of_rspValid hv')]
      exact h.waiting hv'
    · exact .inr ⟨hrsp, s.trace, htr⟩

/-- A step that appends one event keeps the response rule where the rule allows the event. -/
theorem State.ResponseSafe.after_event (h : s.ResponseSafe) (hl : t.Legal) {e : Event}
    (ht : t.trace = s.trace ++ [e]) (he : responseAllows s.trace e)
    (hw : t.rspValid = true → sentFrom t.trace t.rsp) : t.ResponseSafe := by
  refine ⟨hl, ?_, hw⟩
  rw [ht, responseRule_iff]
  exact ((responseRule_iff _).mp h.rule).concat he

/-- The byte that waits is sent, and its source is the event just before (R63). -/
theorem State.ResponseSafe.after_byteTaken (h : s.ResponseSafe) (hv : s.rspValid = true)
    (hl : (byteTaken s).Legal) : (byteTaken s).ResponseSafe :=
  h.after_event hl rfl (h.waiting hv) nofun

/-- The micro-steps of a primitive send nothing, and a byte that then waits is the one just sampled. -/
theorem State.ResponseSafe.after_busData (h : s.ResponseSafe) (hv : s.rspValid = false)
    (hb : BusDataStep s t) (hl : t.Legal) : t.ResponseSafe := by
  cases hb with
  | readSample hm ht =>
    obtain ⟨-, -, -, htr, hrsp⟩ := sampleEdge_shows ht
    exact h.after_event hl htr trivial fun hw => .inl ⟨s.trace, s.addr, by rw [htr, hrsp hv hw]⟩
  | readAddr hm ht | writeAddr hm ht | writeDrive hm ht =>
    subst ht
    exact h.after_event hl rfl trivial fun hw => by simp [driveAddr, driveData, hv] at hw

/-- Every step keeps the response rule. -/
theorem State.ResponseSafe.after_step (h : s.ResponseSafe) (hs : step s = .next t) :
    t.ResponseSafe := by
  have hl : t.Legal := h.legal.after_step hs
  have ha := h.after_advanceInputs
  rcases step_quiet_or hs with hq | ⟨hv, rfl⟩ | ⟨hv, hb⟩
  · exact ha.after_quiet hq hl
  · exact ha.after_byteTaken hv hl
  · exact ha.after_busData hv hb hl

end Sys2Proof.Machine

/-! ### The obligations -/

namespace Sys2Proof.Proofs.MemoryFamily

open Sys2Proof.Machine

/-- Settles O38: the address steps drive the iterator's address, which lies in its region, or 0x2000, and a
sample or a drive comes at a position that keeps the address driven last. -/
theorem addressRuleKept : Obligations.AddressRuleKept :=
  fun _ _ h hs => h.after_step hs

/-- Settles O39: the byte offered by a sample or by PROBE waits with its source as the last event, and no event
comes between that and its Send. -/
theorem responseRuleKept : Obligations.ResponseRuleKept :=
  fun _ _ h hs => h.after_step hs

/-- Settles O44: no operation writes the known contents, so every location reads as before. -/
theorem stepsKeepCartridge : Obligations.StepsKeepCartridge := by
  intro s t hs
  obtain ⟨hparams, hcells, htrace⟩ := step_keeps_cells hs
  exact ⟨hparams, fun b a => by rw [hcells], htrace⟩

/-- Settles O27, by whether the address lies in the bank window. -/
theorem bankWindowDependsOnBank : Obligations.BankWindowDependsOnBank := by
  intro a b b'
  have houtside (h : inBankWindow a = false) : location b a = location b' a := by
    rw [location_outside h, location_outside h]
  refine ⟨fun ha => houtside ?_, fun ha => houtside ?_, fun hlo hhi hne he => ?_⟩
  · simp only [inBankWindow, Bool.and_eq_false_iff, decide_eq_false_iff_not]
    exact .inl (by bv_omega)
  · simp only [inBankWindow, Bool.and_eq_false_iff, decide_eq_false_iff_not]
    exact .inr (by bv_omega)
  · exact hne (location_window_injective (by simp [inBankWindow, hlo, hhi]) he)

end Sys2Proof.Proofs.MemoryFamily
end

section
/-! PROOFS. The family of spec/30_encoding.md: the decoder and the encoder invert each other over the command
map, and a byte outside the map is discarded. -/

namespace Sys2Proof

/-! ### The command map and the ignored bytes -/

/-- The rows of the map are well formed, and each stands under its own code (R72). -/
theorem commandMap_row : ∀ row ∈ commandMap, row.2.wellFormed = true ∧ encodeByte row.2 = row.1 := by
  decide

/-- The bytes without a row of the map are those outside 0x01 to 0x08 (R72, R73). -/
theorem lookup_commandMap_eq_none_iff (c : Byte) :
    commandMap.lookup c = none ↔ isCommandByte c = false := by
  simp only [List.lookup_eq_none_iff, commandMap, List.forall_mem_cons, List.not_mem_nil,
    bne_iff_ne, isCommandByte, Bool.and_eq_false_iff, decide_eq_false_iff_not]
  constructor
  · rintro ⟨h1, h2, h3, h4, h5, h6, h7, h8, -⟩
    bv_omega
  · intro h
    refine ⟨?_, ?_, ?_, ?_, ?_, ?_, ?_, ?_, nofun⟩ <;> bv_omega

/-! ### What the decoder reads -/

/-- The code of an instruction is its one byte, and what follows that byte is left over (R70). -/
theorem decode_encode_append (i : Instr) (rest : List Byte) :
    decode (encode i ++ rest) = .ok (decodeByte (encodeByte i), rest) := rfl

/-- A byte outside 0x01 to 0x08 is the ignored byte of its value (R73). -/
theorem decodeByte_of_not_command {c : Byte} (h : isCommandByte c = false) :
    decodeByte c = .ignored c := by
  simp [decodeByte, (lookup_commandMap_eq_none_iff c).mpr h]

/-- What a byte decodes to: the instruction of its row, or, where it has none, the ignored byte (R72, R73). -/
theorem decodeByte_cases (c : Byte) :
    (c, decodeByte c) ∈ commandMap ∨ (isCommandByte c = false ∧ decodeByte c = .ignored c) := by
  cases hl : commandMap.lookup c with
  | none =>
    have hc := (lookup_commandMap_eq_none_iff c).mp hl
    exact .inr ⟨hc, decodeByte_of_not_command hc⟩
  | some i =>
    obtain ⟨before, after, hmap, -⟩ := List.lookup_eq_some_iff.mp hl
    have hi : decodeByte c = i := by simp [decodeByte, hl]
    exact .inl (by rw [hi, hmap]; simp)

/-! ### Decoding and encoding invert each other -/

theorem wellFormed_decodeByte (c : Byte) : (decodeByte c).wellFormed = true := by
  rcases decodeByte_cases c with hrow | ⟨hc, hi⟩
  · exact (commandMap_row _ hrow).1
  · simp [hi, Instr.wellFormed, hc]

theorem encodeByte_decodeByte (c : Byte) : encodeByte (decodeByte c) = c := by
  rcases decodeByte_cases c with hrow | ⟨-, hi⟩
  · exact (commandMap_row _ hrow).2
  · rw [hi, encodeByte]

theorem decodeByte_encodeByte {i : Instr} (h : i.wellFormed = true) : decodeByte (encodeByte i) = i := by
  cases i with
  | ignored c =>
    have hc : isCommandByte c = false := by simpa [Instr.wellFormed] using h
    exact decodeByte_of_not_command hc
  | probe | rdtype | rdromsz | rdgbc | rdtitle | rdlogo | dump | rdcksum => rfl

/-- The word of the command map that holds an instruction's code decodes to the instruction (R72). -/
theorem decodeTableWord_encodeByte (i : Instr) (h : i.wellFormed = true) :
    decodeTableWord 8 (encodeByte i).toNat = some i := by
  have hbyte : tableByte 8 (encodeByte i).toNat = encodeByte i := by
    rw [tableByte, Nat.mod_eq_of_lt (encodeByte i).isLt, BitVec.ofNat_toNat, BitVec.setWidth_eq]
  rw [decodeTableWord, hbyte, decode, decodeByte_encodeByte h]

end Sys2Proof

/-! ### The step that takes an ignored byte -/

namespace Sys2Proof.Machine

variable {s : State}

/-- An idle block only takes a byte outside 0x01 to 0x08 off the transport (R193). -/
theorem step_take_ignored {c : Byte} (hr : s.env.pins.rst = false) (hd : s.dstate = .idle)
    (ho : s.env.offered = some c) (hc : isCommandByte c = false) :
    step s = .next (takeByte c (advanceInputs s)) := by
  rw [step_take hr hd ho, decodeByte_of_not_command hc, exec_ignored]

/-- Taking a byte, in the fields it writes: the transport's queue, the trace and the clock (R180, R250). -/
theorem takeByte_advanceInputs (c : Byte) (s : State) :
    takeByte c (advanceInputs s) =
      { advanceInputs s with
        env := { s.env.advance with rx := s.env.rx.tail }
        trace := s.trace ++ [.accept c]
        clocks := s.clocks + 1 } := by
  rw [← advance_rx s.env]
  rfl

end Sys2Proof.Machine

/-! ### The obligations -/

namespace Sys2Proof.Proofs.EncodingFamily

open Sys2Proof.Machine

/-- Settles O1: the decoder reads the code's one byte, and that byte decodes to the instruction. -/
theorem decodeInvertsEncode : Obligations.DecodeInvertsEncode := by
  intro i rest h
  rw [decode_encode_append, decodeByte_encodeByte h]

/-- Settles O2: the reading encodes back by its row of the map, and decoding a code gives back its
instruction, so no second one has that code. -/
theorem everyByteIsOneInstruction : Obligations.EveryByteIsOneInstruction := by
  refine fun c => ⟨wellFormed_decodeByte c, encodeByte_decodeByte c, ?_⟩
  rintro i h rfl
  exact (decodeByte_encodeByte h).symm

/-- Settles O3: each word is the code of the well-formed instruction it stands for. -/
theorem commandMapWordsDecode : Obligations.CommandMapWordsDecode :=
  ⟨decodeTableWord_encodeByte .probe rfl, decodeTableWord_encodeByte .rdtype rfl,
    decodeTableWord_encodeByte .rdromsz rfl, decodeTableWord_encodeByte .rdgbc rfl,
    decodeTableWord_encodeByte .rdtitle rfl, decodeTableWord_encodeByte .rdlogo rfl,
    decodeTableWord_encodeByte .dump rfl, decodeTableWord_encodeByte .rdcksum rfl,
    decodeTableWord_encodeByte (.ignored 0x00#8) rfl, decodeTableWord_encodeByte (.ignored 0x09#8) rfl⟩

/-- Settles O14: such a byte decodes to the ignored byte, whose meaning is the state itself. -/
theorem ignoredByteDoesNothing : Obligations.IgnoredByteDoesNothing := by
  refine ⟨exec_ignored, fun s c hd hr ho hc => ?_⟩
  rw [step_take_ignored hr hd ho hc, takeByte_advanceInputs]

end Sys2Proof.Proofs.EncodingFamily
end

section
/-! PROOFS. The family of spec/41_bus_driver.md: the bus primitives as runs, the steps that change a bus
register, and the settle rule with its checker. -/

namespace Sys2Proof.Machine

variable {s t : State}

/-! ### The settle wait -/

/-- The last step of a run. -/
theorem runSteps_concat {u : State} {k : Nat} (h : runSteps k s = .next t) (hs : step t = .next u) :
    runSteps (k + 1) s = .next u :=
  runSteps_add k 1 h (runSteps_succ 0 hs)

/-- The sequencer's edge is the step of an attended block that executes with no byte waiting. -/
theorem step_of_runEdge (ha : s.attended) (hd : s.dstate = .executing) (hv : s.rspValid = false)
    (hr : runEdge s = .next t) : step s = .next t :=
  (step_attended_run ha hd hv).trans hr

/-- An edge of a settle wait before the last only counts down (R107). -/
theorem settleEdge_of_one_lt (m : Micro) (h : 1 < s.settleCnt) :
    settleEdge m s = wait { s with settleCnt := s.settleCnt - 1 } :=
  if_neg (by omega)

/-- The last edge of a settle wait emits Settle (R107). -/
theorem settleEdge_of_le_one (m : Micro) (h : s.settleCnt ≤ 1) :
    settleEdge m s = emit .settle { s with settleCnt := 0, micro := m } :=
  if_pos h

/-- A position inside a settle wait takes only edges of that wait, towards one position outside it (R107). -/
theorem runEdge_settling {m : Micro} (h : settling m = true) :
    ∃ m', settling m' = false ∧ ∀ u : State, u.micro = m → runEdge u = .next (settleEdge m' u) := by
  cases m with
  | readSettle => exact ⟨.readSample, rfl, fun u hu => by simp [runEdge, hu]⟩
  | writeSettle => exact ⟨.writeDrive, rfl, fun u hu => by simp [runEdge, hu]⟩
  | pulseSettle => exact ⟨.pulseRead, rfl, fun u hu => by simp [runEdge, hu]⟩
  | _ => cases h

section
variable (ha : s.attended) (hd : s.dstate = .executing) (hv : s.rspValid = false) {m' : Micro}
  (hwait : ∀ u : State, u.micro = s.micro → runEdge u = .next (settleEdge m' u))
include ha hd hv hwait

/-- Before its last edge a settle wait moves only the counter and the clock (R107). -/
theorem settleWait_counts {k : Nat} (hk : k < s.settleCnt) :
    runSteps k s = .next { s with settleCnt := s.settleCnt - k, clocks := s.clocks + k } := by
  induction k with
  | zero => rfl
  | succ k ih =>
    refine runSteps_concat (ih (by omega)) (step_of_runEdge ha hd hv (Eq.trans (hwait _ rfl) ?_))
    rw [settleEdge_of_one_lt]
    · rfl
    · change 1 < s.settleCnt - k
      omega

/-- The last edge of a settle wait emits Settle and leaves the wait (R107). -/
theorem settleWait_ends (hc : 1 ≤ s.settleCnt) :
    runSteps s.settleCnt s = .next { s with
      settleCnt := 0, micro := m', trace := s.trace ++ [.settle]
      clocks := s.clocks + s.settleCnt } := by
  obtain ⟨c, hcnt⟩ : ∃ c, s.settleCnt = c + 1 := ⟨s.settleCnt - 1, by omega⟩
  have hlast := settleWait_counts ha hd hv hwait (k := c) (by omega)
  rw [hcnt] at hlast ⊢
  refine runSteps_concat hlast (step_of_runEdge ha hd hv (Eq.trans (hwait _ rfl) ?_))
  rw [settleEdge_of_le_one]
  · rfl
  · change c + 1 - c ≤ 1
    omega

end

/-! ### The bus primitives -/

/-- Where the iterator is at a read, `Next()` starts it (R151 to R154). -/
theorem nextEdge_of_atRead (h : atRead s = true) : nextEdge s = beginRead s := by
  cases hp : s.phase with
  | single | romSize => simp only [nextEdge, hp]
  | range | base | bankWin =>
    have hl : rangeLeft s = true := by simpa [atRead, hp] using h
    simp only [nextEdge, hp, hl, if_true]
  | none | select | done => simp [atRead, hp] at h

/-- `s` after the direction step, the address step and the settle wait of a primitive, at the position `m`
(R103, R105, R107). -/
def settledAt (d : Dir) (a : Word16) (m : Micro) (s : State) : State :=
  { s with
    ddir := d
    addr := a
    settleCnt := 0
    micro := m
    trace := s.trace ++ [.dir d, .addr a, .settle]
    clocks := s.clocks + s.params.settleCycles + 2 }

section
variable (ha : s.attended) (hd : s.dstate = .executing) (hv : s.rspValid = false)
  (hp : 1 ≤ s.params.settleCycles)
include ha hd hv hp

/-- MemRead and MemWrite both begin with the direction step, the address step and the settle wait. -/
theorem runSteps_settledAt {d : Dir} {a : Word16} {m₁ m₂ m₃ : Micro}
    (hdir : runEdge s = .next (driveDir d m₁ s))
    (haddr : runEdge (driveDir d m₁ s) = .next (driveAddr a m₂ (driveDir d m₁ s)))
    (hwait : ∀ u : State, u.micro = m₂ → runEdge u = .next (settleEdge m₃ u)) :
    runSteps (s.params.settleCycles + 2) s = .next (settledAt d a m₃ s) := by
  have hfirst : step s = .next (driveDir d m₁ s) := step_of_runEdge ha hd hv hdir
  have hsecond : step (driveDir d m₁ s) = .next (driveAddr a m₂ (driveDir d m₁ s)) :=
    step_of_runEdge ha hd hv haddr
  have hsettle := settleWait_ends (s := driveAddr a m₂ (driveDir d m₁ s)) ha hd hv hwait hp
  rw [runSteps_succ _ hfirst, runSteps_succ _ hsecond]
  refine hsettle.trans ?_
  simp [settledAt, driveAddr, driveDir, Nat.add_right_comm]

/-- MemRead as far as its sample step (R103). -/
theorem memRead_settles (hm : s.micro = .none) (hmode : s.mode = .read) (hr : atRead s = true) :
    runSteps (s.params.settleCycles + 2) s =
      .next (settledAt .input (readOperand s) .readSample s) := by
  refine runSteps_settledAt (m₁ := .readAddr) (m₂ := .readSettle) ha hd hv hp ?_ rfl
    fun u hu => by simp [runEdge, hu]
  simp only [runEdge, hm, nextEdge_of_atRead hr, beginRead, hmode]

/-- The MemWrite of selectBank as far as its drive step (R105, R131). -/
theorem memWrite_settles (hm : s.micro = .none) (hmode : s.mode = .read) (hph : s.phase = .select) :
    runSteps (s.params.settleCycles + 2) s =
      .next (settledAt .output bankSelectAddr .writeDrive s) := by
  refine runSteps_settledAt (m₁ := .writeAddr) (m₂ := .writeSettle) ha hd hv hp ?_ rfl
    fun u hu => by simp [runEdge, hu]
  simp only [runEdge, hm, nextEdge, hph, beginSelect, hmode]

end

/-- `t` is `s` after its sample step, in what the step does whatever the phase (R103): the data lines are
sampled, and the bus, the dispatcher and the parameters keep their registers. -/
structure Sampled (s t : State) : Prop where
  trace : t.trace = s.trace ++ [.sample s.addr (sampledByte s)]
  micro : t.micro = .none
  env : t.env = { s.env with draws := s.env.draws + 1 }
  clocks : t.clocks = s.clocks + 1
  params : t.params = s.params
  mode : t.mode = s.mode
  addr : t.addr = s.addr
  ddir : t.ddir = s.ddir
  dout : t.dout = s.dout
  settleCnt : t.settleCnt = s.settleCnt
  dstate : t.dstate = s.dstate
  cmd : t.cmd = s.cmd
  status : t.status = s.status

/-- The sample of a byte that is returned: it waits in RSP (R182). -/
theorem sampleEdge_returns (hr : atRead s = true) (hp : s.phase ≠ .romSize) :
    ∃ t, sampleEdge s = .next t ∧ Sampled s t ∧
      t.rspValid = true ∧ t.rsp = sampledByte s ∧ t.romcode = s.romcode := by
  cases hph : s.phase with
  | single | range | base | bankWin =>
    simp only [sampleEdge, hph]
    exact ⟨_, rfl, by constructor <;> rfl, rfl, rfl, rfl⟩
  | romSize => exact absurd hph hp
  | none | select | done => simp [atRead, hph] at hr

/-- The sample of the ROM-size code: it is kept in ROMCODE, and nothing is sent (R154). -/
theorem sampleEdge_keeps_code (hp : s.phase = .romSize) :
    ∃ t, sampleEdge s = .next t ∧ Sampled s t ∧
      t.rspValid = s.rspValid ∧ t.rsp = s.rsp ∧ t.romcode = sampledByte s := by
  simp only [sampleEdge, hp]
  rcases resolveBanks_cases (sampledByte s) (sampleBus s) with ⟨n, -, he⟩ | ⟨-, he⟩ <;> rw [he] <;>
    exact ⟨_, rfl, by constructor <;> rfl, rfl, rfl, rfl⟩

/-- The sample step at any read (R103, R154, R182). -/
theorem sampleEdge_of_atRead (hr : atRead s = true) (hv : s.rspValid = false) :
    ∃ t, sampleEdge s = .next t ∧ Sampled s t ∧
      (s.phase ≠ .romSize → t.rspValid = true ∧ t.rsp = sampledByte s ∧ t.romcode = s.romcode) ∧
      (s.phase = .romSize → t.rspValid = false ∧ t.rsp = s.rsp ∧ t.romcode = sampledByte s) := by
  by_cases hp : s.phase = .romSize
  · obtain ⟨t, ht, hsam, hvalid, hrest⟩ := sampleEdge_keeps_code hp
    exact ⟨t, ht, hsam, fun hn => absurd hp hn, fun _ => ⟨hvalid.trans hv, hrest⟩⟩
  · obtain ⟨t, ht, hsam, hrest⟩ := sampleEdge_returns hr hp
    exact ⟨t, ht, hsam, fun _ => hrest, fun hn => absurd hn hp⟩

/-- In Write mode the iterator of a legal state is in the Select phase, where nothing is read (R104, R133). -/
theorem State.Legal.mode_read_of_atRead (h : s.Legal) (hr : atRead s = true) : s.mode = .read := by
  have hpos := h.positionOk
  refine h.mode_read ?_
  cases hm : s.micro with
  | pulseSettle | pulseRead =>
    have hsel : s.phase = .select := by
      simp only [positionFits, hm, Bool.and_eq_true, beq_iff_eq] at hpos
      obtain ⟨⟨⟨hsel, -⟩, -⟩, -⟩ := hpos
      exact hsel
    simp [atRead, hsel] at hr
  | _ => rfl

/-! ### The steps that change a bus register -/

/-- Where `t` differs from `s` in a bus register, `t` shows its new value as the one event after the trace of
`s`. -/
structure BusShown (s t : State) : Prop where
  mode : t.mode ≠ s.mode → t.trace = s.trace ++ [.mode t.mode]
  addr : t.addr ≠ s.addr → t.trace = s.trace ++ [.addr t.addr]
  ddir : t.ddir ≠ s.ddir → t.trace = s.trace ++ [.dir t.ddir]
  dout : t.dout ≠ s.dout → t.trace = s.trace ++ [.drive t.dout]

/-- A step that keeps the bus registers has nothing to show. -/
theorem BusShown.of_kept (hm : t.mode = s.mode) (ha : t.addr = s.addr) (hd : t.ddir = s.ddir)
    (ho : t.dout = s.dout) : BusShown s t :=
  ⟨fun h => absurd hm h, fun h => absurd ha h, fun h => absurd hd h, fun h => absurd ho h⟩

theorem busShown_driveDir (d : Dir) (m : Micro) (s : State) : BusShown s (driveDir d m s) :=
  ⟨fun h => absurd rfl h, fun h => absurd rfl h, fun _ => rfl, fun h => absurd rfl h⟩

theorem busShown_driveAddr (a : Word16) (m : Micro) (s : State) : BusShown s (driveAddr a m s) :=
  ⟨fun h => absurd rfl h, fun _ => rfl, fun h => absurd rfl h, fun h => absurd rfl h⟩

theorem busShown_driveData (v : Byte) (m : Micro) (s : State) : BusShown s (driveData v m s) :=
  ⟨fun h => absurd rfl h, fun h => absurd rfl h, fun h => absurd rfl h, fun _ => rfl⟩

theorem busShown_selectPulse (s : State) : BusShown s (selectPulse s) :=
  ⟨fun _ => rfl, fun h => absurd rfl h, fun h => absurd rfl h, fun h => absurd rfl h⟩

theorem busShown_selectEnd (s : State) : BusShown s (selectEnd s) :=
  ⟨fun _ => rfl, fun h => absurd rfl h, fun h => absurd rfl h, fun h => absurd rfl h⟩

theorem busShown_settleEdge (m : Micro) (s : State) : BusShown s (settleEdge m s) := by
  rcases settleEdge_cases m s with ⟨-, he⟩ | ⟨-, he⟩ <;> rw [he] <;>
    exact .of_kept rfl rfl rfl rfl

/-- `Next()` between two primitives changes at most the direction of the data lines (R150). -/
theorem busShown_nextEdge (h : nextEdge s = .next t) : BusShown s t := by
  rcases nextEdge_next h with ⟨-, -, rfl⟩ | ⟨-, -, rfl⟩ | ⟨-, rfl⟩ | ⟨-, -, rfl⟩ | ⟨-, -, -, rfl⟩ |
    ⟨-, -, rfl⟩
  · exact busShown_driveDir _ _ s
  · exact busShown_driveDir _ _ s
  all_goals exact .of_kept rfl rfl rfl rfl

/-- The sample step changes no bus register (R103). -/
theorem busShown_sampleEdge (h : sampleEdge s = .next t) : BusShown s t := by
  rcases sampleEdge_next h with ⟨-, rfl⟩ | ⟨-, rfl⟩ | ⟨-, rfl⟩
  · exact .of_kept rfl rfl rfl rfl
  · exact .of_kept rfl rfl rfl rfl
  · rcases resolveBanks_cases (sampledByte s) (sampleBus s) with ⟨n, -, he⟩ | ⟨-, he⟩ <;> rw [he] <;>
      exact .of_kept rfl rfl rfl rfl

/-- Every Execute step shows what it changes on the bus (R110). -/
theorem busShown_runEdge (h : runEdge s = .next t) : BusShown s t := by
  rcases runEdge_next h with ⟨-, hn⟩ | ⟨-, rfl⟩ | ⟨-, rfl⟩ | ⟨-, hn⟩ | ⟨-, rfl⟩ | ⟨-, rfl⟩ |
    ⟨-, rfl⟩ | ⟨-, rfl⟩ | ⟨-, rfl⟩ | ⟨-, rfl⟩
  · exact busShown_nextEdge hn
  · exact busShown_driveAddr _ _ s
  · exact busShown_settleEdge _ s
  · exact busShown_sampleEdge hn
  · exact busShown_driveAddr _ _ s
  · exact busShown_settleEdge _ s
  · exact busShown_driveData _ _ s
  · exact busShown_selectPulse s
  · exact busShown_settleEdge _ s
  · exact busShown_selectEnd s

/-- The edge that takes a command byte changes no bus register (R180). -/
theorem busShown_accept {i : Instr} {c : Byte} (h : exec i (takeByte c s) = .next t) :
    BusShown s t := by
  rcases exec_next h with ⟨-, rfl⟩ | ⟨-, rfl⟩ | ⟨-, rfl⟩ | ⟨-, rfl⟩ | ⟨-, rfl⟩ <;>
    exact .of_kept rfl rfl rfl rfl

/-- Every step without reset shows what it changes on the bus (R110). -/
theorem busShown_step (hrst : s.env.pins.rst = false) (h : step s = .next t) : BusShown s t := by
  have hshown : BusShown (advanceInputs s) t := by
    rcases step_next h with ⟨hr, -⟩ | ⟨-, -, ⟨c, -, he⟩ | ⟨-, rfl⟩⟩ |
      ⟨-, -, ⟨-, -, rfl⟩ | ⟨-, -, rfl⟩ | ⟨-, hr⟩⟩
    · simp [hrst] at hr
    · exact busShown_accept he
    · exact .of_kept rfl rfl rfl rfl
    · exact .of_kept rfl rfl rfl rfl
    · exact .of_kept rfl rfl rfl rfl
    · exact busShown_runEdge hr
  exact ⟨hshown.mode, hshown.addr, hshown.ddir, hshown.dout⟩

/-! ### The settle rule, event by event -/

/-- A Settle follows every Mode(Write) of the trace. -/
def PulsesSettled (t : List Event) : Prop :=
  ∀ before after, t = before ++ .mode .write :: after → Event.settle ∈ after

/-- What the settle rule asks of an event (R108). -/
def settleAllows (before : List Event) : Event → Prop
  | .sample _ _ => SettledSince Event.isAddr before
  | .drive _ => SettledSince Event.isAddr before
  | .mode .read => PulsesSettled before
  | _ => True

/-- The settle rule speaks of each event by itself. -/
theorem settleRule_iff (t : List Event) : SettleRule t ↔ EveryEvent settleAllows t := by
  constructor
  · intro h before e after he
    cases e with
    | sample a v => exact h.samples before a v after he
    | drive v => exact h.drives before v after he
    | mode m =>
      cases m with
      | read =>
        rintro init between rfl
        exact h.pulses init between after (by simpa using he)
      | write => trivial
    | _ => trivial
  · intro h
    refine ⟨fun before a v after he => h before _ after he,
      fun before v after he => h before _ after he, fun before between after he => ?_⟩
    have hread : PulsesSettled (before ++ .mode .write :: between) :=
      h _ (.mode .read) after (by simpa using he)
    exact hread before between rfl

theorem not_settledSince_nil (p : Event → Prop) : ¬ SettledSince p [] := by
  rintro ⟨before, after, he, -⟩
  simp at he

/-- Since the last event that satisfies `p` a Settle has come, at the end of a longer trace. -/
theorem settledSince_concat (p : Event → Prop) (t : List Event) (e : Event) :
    SettledSince p (t ++ [e]) ↔ e = .settle ∨ (¬ p e ∧ SettledSince p t) := by
  constructor
  · rintro ⟨before, after, he, hafter⟩
    rcases List.eq_nil_or_concat after with rfl | ⟨rest, x, rfl⟩
    · have hlast : t ++ [e] = before ++ [.settle] := he
      exact .inl (by simpa using (List.append_inj' hlast rfl).2)
    · have hlast : t ++ [e] = (before ++ .settle :: rest) ++ [x] := by simpa using he
      obtain ⟨rfl, hx⟩ := List.append_inj' hlast rfl
      obtain rfl : e = x := by simpa using hx
      exact .inr ⟨hafter e (by simp), before, rest, rfl, fun y hy => hafter y (by simp [hy])⟩
  · rintro (rfl | ⟨hp, before, after, rfl, hafter⟩)
    · exact ⟨t, [], rfl, by simp⟩
    · refine ⟨before, after ++ [e], by simp, fun y hy => ?_⟩
      rcases List.mem_append.mp hy with hy | hy
      · exact hafter y hy
      · rwa [List.mem_singleton.mp hy]

theorem pulsesSettled_nil : PulsesSettled [] := fun before after he => by simp at he

/-- Every pulse has its Settle, at the end of a longer trace. -/
theorem pulsesSettled_concat (t : List Event) (e : Event) :
    PulsesSettled (t ++ [e]) ↔ e = .settle ∨ (e ≠ .mode .write ∧ PulsesSettled t) := by
  constructor
  · refine fun h => or_iff_not_imp_left.mpr fun hne => ⟨?_, ?_⟩
    · rintro rfl
      exact absurd (h t [] rfl) List.not_mem_nil
    · rintro before after rfl
      have hmem : Event.settle ∈ after ++ [e] := h before (after ++ [e]) (by simp)
      simpa [Ne.symm hne] using hmem
  · intro h before after he
    rcases List.eq_nil_or_concat after with rfl | ⟨rest, x, rfl⟩
    · have hlast : t ++ [e] = before ++ [.mode .write] := he
      obtain rfl : e = .mode .write := by simpa using (List.append_inj' hlast rfl).2
      simp at h
    · have hlast : t ++ [e] = (before ++ .mode .write :: rest) ++ [x] := by simpa using he
      obtain ⟨rfl, hx⟩ := List.append_inj' hlast rfl
      obtain rfl : e = x := by simpa using hx
      rcases h with rfl | ⟨-, h⟩
      · simp
      · simp [h before rest rfl]

/-- A Settle after the last Mode(Write) is a Settle after each of them. -/
theorem SettledSince.pulsesSettled {t : List Event} (h : SettledSince (· = .mode .write) t) :
    PulsesSettled t := by
  induction t using List.reverseRecOn with
  | nil => exact pulsesSettled_nil
  | append_singleton t e ih =>
    rw [settledSince_concat] at h
    exact (pulsesSettled_concat t e).mpr (h.imp_right (And.imp_right ih))

/-! ### The checker of the settle rule -/

/-- A rule holds of a trace where it holds of its first event, and of the others with that event before
them. -/
theorem everyEvent_cons {P : List Event → Event → Prop} (e : Event) (rest : List Event) :
    EveryEvent P (e :: rest) ↔ P [] e ∧ EveryEvent (fun before => P (e :: before)) rest := by
  constructor
  · exact fun h => ⟨h [] e rest rfl, fun before x after hx => h (e :: before) x after (by simp [hx])⟩
  · rintro ⟨hfirst, hrest⟩ before x after he
    cases before with
    | nil =>
      obtain ⟨rfl, -⟩ : e = x ∧ rest = after := by simpa using he
      exact hfirst
    | cons y before =>
      obtain ⟨rfl, hx⟩ : e = y ∧ rest = before ++ x :: after := by simpa using he
      exact hrest before x after hx

/-- The checker remembers what it has seen of the trace. -/
structure SettleScan.Describes (m : SettleScan) (seen : List Event) : Prop where
  settled : m.settled = true ↔ SettledSince Event.isAddr seen
  pulseOpen : m.pulseOpen = false ↔ PulsesSettled seen

/-- The checker starts with nothing seen. -/
theorem SettleScan.describes_nil : SettleScan.Describes ⟨false, false⟩ [] :=
  ⟨by simp [not_settledSince_nil], by simp [pulsesSettled_nil]⟩

/-- One event of the checker: it goes on, remembering the event, exactly where the rule allows it. -/
theorem SettleScan.Describes.next {m : SettleScan} {seen : List Event} (h : m.Describes seen)
    (e : Event) :
    (settleAllows seen e ∧ ∃ n, m.next e = some n ∧ n.Describes (seen ++ [e])) ∨
    (¬ settleAllows seen e ∧ m.next e = none) := by
  obtain ⟨hset, hpulse⟩ := h
  have hkeep (hs : e ≠ .settle) (ha : ¬ e.isAddr) (hw : e ≠ .mode .write) :
      m.Describes (seen ++ [e]) :=
    ⟨by simp [settledSince_concat, hs, ha, hset], by simp [pulsesSettled_concat, hs, hw, hpulse]⟩
  cases e with
  | addr a =>
    exact .inl ⟨trivial, _, rfl, by simp [settledSince_concat, Event.isAddr],
      by simp [pulsesSettled_concat, hpulse]⟩
  | settle =>
    exact .inl ⟨trivial, _, rfl, by simp [settledSince_concat], by simp [pulsesSettled_concat]⟩
  | sample a v | drive v =>
    cases hm : m.settled with
    | true =>
      exact .inl ⟨hset.mp hm, m, by simp [SettleScan.next, hm],
        hkeep (by simp) (by simp [Event.isAddr]) (by simp)⟩
    | false =>
      exact .inr ⟨fun hs => by simp [hset.mpr hs] at hm, by simp [SettleScan.next, hm]⟩
  | mode x =>
    cases x with
    | write =>
      exact .inl ⟨trivial, _, rfl, by simp [settledSince_concat, Event.isAddr, hset],
        by simp [pulsesSettled_concat]⟩
    | read =>
      cases hm : m.pulseOpen with
      | false =>
        exact .inl ⟨hpulse.mp hm, m, by simp [SettleScan.next, hm],
          hkeep (by simp) (by simp [Event.isAddr]) (by simp)⟩
      | true =>
        exact .inr ⟨fun hs => by simp [hpulse.mpr hs] at hm, by simp [SettleScan.next, hm]⟩
  | accept c | dir d | send v | status x =>
    exact .inl ⟨trivial, m, rfl, hkeep (by simp) (by simp [Event.isAddr]) (by simp)⟩

/-- The checker accepts the rest of a trace where the rule allows each event of it after what was seen. -/
theorem SettleScan.Describes.accepts_iff {m : SettleScan} {seen : List Event} (h : m.Describes seen)
    (rest : List Event) :
    m.accepts rest = true ↔ EveryEvent (fun before => settleAllows (seen ++ before)) rest := by
  induction rest generalizing m seen with
  | nil => simp [SettleScan.accepts, EveryEvent]
  | cons e rest ih =>
    rw [everyEvent_cons, List.append_nil]
    rcases h.next e with ⟨hallow, n, hn, hd⟩ | ⟨hdeny, hn⟩
    · simp only [SettleScan.accepts, hn, ih hd, hallow, true_and, List.append_assoc,
        List.singleton_append]
    · simp only [SettleScan.accepts, hn, hdeny, false_and, Bool.false_eq_true]

/-! ### The settle rule over a step -/

/-- The positions a settle wait leads to: at these the trace shows a Settle (R103, R105, R131). -/
def settleShown : Micro → Bool
  | .readSample => true
  | .writeDrive => true
  | .pulseRead => true
  | .none => false
  | .readAddr => false
  | .readSettle => false
  | .writeAddr => false
  | .writeSettle => false
  | .pulseWrite => false
  | .pulseSettle => false

/-- The settle rule asks nothing of the event, and counts no Settle from it. -/
def Event.keepsSettled : Event → Bool
  | .accept _ => true
  | .dir _ => true
  | .send _ => true
  | .status _ => true
  | .addr _ => false
  | .settle => false
  | .sample _ _ => false
  | .drive _ => false
  | .mode _ => false

theorem settleAllows_of_keepsSettled {e : Event} (h : e.keepsSettled = true) (before : List Event) :
    settleAllows before e := by
  cases e with
  | sample a v | drive v | mode m => cases h
  | _ => trivial

/-- A Settle stays the last word over events that satisfy `p` nowhere. -/
theorem SettledSince.append {p : Event → Prop} {t es : List Event} (h : SettledSince p t)
    (hes : ∀ e ∈ es, ¬ p e) : SettledSince p (t ++ es) := by
  obtain ⟨before, after, rfl, hafter⟩ := h
  exact ⟨before, after ++ es, by simp, fun e he => (List.mem_append.mp he).elim (hafter e) (hes e)⟩

theorem State.SettleSafe.after_advanceInputs (h : s.SettleSafe) : (advanceInputs s).SettleSafe :=
  ⟨h.legal.after_advanceInputs, h.rule, h.sampleReady, h.driveReady, h.pulseReady⟩

/-- A step whose events the settle rule does not speak of keeps it, where the position stays or is none that
a settle wait leads to. -/
theorem State.SettleSafe.after_keepsSettled (h : s.SettleSafe) (hl : t.Legal) {es : List Event}
    (ht : t.trace = s.trace ++ es) (hes : ∀ e ∈ es, e.keepsSettled = true)
    (hm : t.micro = s.micro ∨ settleShown t.micro = false) : t.SettleSafe := by
  have hrule : SettleRule t.trace := by
    rw [ht, settleRule_iff]
    exact ((settleRule_iff _).mp h.rule).append_of_forall fun e he =>
      settleAllows_of_keepsSettled (hes e he)
  have hkeep {m : Micro} {p : Event → Prop} (hshown : settleShown m = true)
      (hp : ∀ e, p e → e.keepsSettled = false) (hs : s.micro = m → SettledSince p s.trace)
      (hmt : t.micro = m) : SettledSince p t.trace := by
    rcases hm with hm | hm
    · rw [ht]
      exact (hs (hm ▸ hmt)).append fun e he hpe => by simpa [hp e hpe] using hes e he
    · simp [hmt, hshown] at hm
  have haddr (e : Event) (he : e.isAddr) : e.keepsSettled = false := by
    cases e with
    | addr a => rfl
    | _ => cases he
  exact ⟨hl, hrule, hkeep rfl haddr h.sampleReady, hkeep rfl haddr h.driveReady,
    hkeep rfl (by rintro _ rfl; rfl) h.pulseReady⟩

/-- A step that appends one event keeps the settle rule where the rule allows the event and the position is
none that a settle wait leads to. -/
theorem State.SettleSafe.after_event (h : s.SettleSafe) (hl : t.Legal) {e : Event}
    (ht : t.trace = s.trace ++ [e]) (he : settleAllows s.trace e)
    (hm : settleShown t.micro = false) : t.SettleSafe where
  legal := hl
  rule := by
    rw [ht, settleRule_iff]
    exact ((settleRule_iff _).mp h.rule).concat he
  sampleReady hmt := by simp [hmt, settleShown] at hm
  driveReady hmt := by simp [hmt, settleShown] at hm
  pulseReady hmt := by simp [hmt, settleShown] at hm

/-- The Settle at the end of a wait is what the next position asks of the trace (R107). -/
theorem State.SettleSafe.after_settleEdge (h : s.SettleSafe) {m : Micro}
    (hl : (settleEdge m s).Legal) : (settleEdge m s).SettleSafe := by
  rcases settleEdge_cases m s with ⟨-, he⟩ | ⟨-, he⟩ <;> rw [he] at hl ⊢
  · have hsettled (p : Event → Prop) : SettledSince p (s.trace ++ [.settle]) :=
      (settledSince_concat p _ _).mpr (.inl rfl)
    have hrule : SettleRule (s.trace ++ [.settle]) :=
      (settleRule_iff _).mpr (((settleRule_iff _).mp h.rule).concat trivial)
    exact ⟨hl, hrule, fun _ => hsettled _, fun _ => hsettled _, fun _ => hsettled _⟩
  · exact h.after_keepsSettled hl (es := []) (by simp) (by simp) (.inl rfl)

/-- `Next()` between two primitives emits nothing the settle rule speaks of (R150). -/
theorem State.SettleSafe.after_nextEdge (h : s.SettleSafe) (hl : t.Legal)
    (hn : nextEdge s = .next t) : t.SettleSafe := by
  rcases nextEdge_next hn with ⟨-, -, rfl⟩ | ⟨-, -, rfl⟩ | ⟨-, rfl⟩ | ⟨-, -, rfl⟩ | ⟨-, -, -, rfl⟩ |
    ⟨-, -, rfl⟩
  · exact h.after_event hl (e := .dir .input) rfl trivial rfl
  · exact h.after_event hl (e := .dir .output) rfl trivial rfl
  · refine h.after_keepsSettled hl rfl ?_ (.inl rfl)
    cases s.status <;> simp [bracketEnd, Event.keepsSettled]
  all_goals exact h.after_keepsSettled hl (es := []) (by simp) (by simp) (.inl rfl)

/-- An Execute step keeps the settle rule: the sample step, the drive step and the end of the Write pulse come
after a settle wait (R103, R105, R131). -/
theorem State.SettleSafe.after_runEdge (h : s.SettleSafe) (hl : t.Legal)
    (hr : runEdge s = .next t) : t.SettleSafe := by
  rcases runEdge_next hr with ⟨-, hn⟩ | ⟨-, rfl⟩ | ⟨-, rfl⟩ | ⟨hm, hn⟩ | ⟨-, rfl⟩ | ⟨-, rfl⟩ |
    ⟨hm, rfl⟩ | ⟨-, rfl⟩ | ⟨-, rfl⟩ | ⟨hm, rfl⟩
  · exact h.after_nextEdge hl hn
  · exact h.after_event hl (e := .addr (readOperand s)) rfl trivial rfl
  · exact h.after_settleEdge hl
  · obtain ⟨-, -, hmicro, htr, -⟩ := sampleEdge_shows hn
    exact h.after_event hl htr (h.sampleReady hm) (by rw [hmicro]; rfl)
  · exact h.after_event hl (e := .addr bankSelectAddr) rfl trivial rfl
  · exact h.after_settleEdge hl
  · exact h.after_event hl (e := .drive (writeOperand s)) rfl (h.driveReady hm) rfl
  · exact h.after_event hl (e := .mode .write) rfl trivial rfl
  · exact h.after_settleEdge hl
  · exact h.after_event hl (e := .mode .read) rfl (h.pulseReady hm).pulsesSettled rfl

/-- The edge that takes a command byte emits nothing the settle rule speaks of (R180, R183). -/
theorem State.SettleSafe.after_accept (h : s.SettleSafe) (hl : t.Legal) {i : Instr} {c : Byte}
    (he : exec i (takeByte c s) = .next t) : t.SettleSafe := by
  rcases exec_next he with ⟨-, rfl⟩ | ⟨-, rfl⟩ | ⟨-, rfl⟩ | ⟨-, rfl⟩ | ⟨-, rfl⟩
  case inr.inr.inl | inr.inr.inr.inl =>
    exact h.after_keepsSettled hl (es := [.accept c, .status .blinking])
      (by simp [initRange, initBanked]) (by simp [Event.keepsSettled]) (.inl rfl)
  all_goals
    exact h.after_keepsSettled hl (es := [.accept c]) rfl (by simp [Event.keepsSettled]) (.inl rfl)

/-- Every step keeps the settle rule. -/
theorem State.SettleSafe.after_step (h : s.SettleSafe) (hs : step s = .next t) : t.SettleSafe := by
  have hl : t.Legal := h.legal.after_step hs
  have ha := h.after_advanceInputs
  rcases step_next hs with ⟨-, rfl⟩ | ⟨-, -, ⟨c, -, he⟩ | ⟨-, rfl⟩⟩ |
    ⟨-, -, ⟨-, -, rfl⟩ | ⟨-, -, rfl⟩ | ⟨-, hr⟩⟩
  · exact ha.after_keepsSettled hl (es := []) (by simp [resetEdge]) (by simp) (.inr rfl)
  · exact ha.after_accept hl he
  · exact ha.after_keepsSettled hl (es := []) (by simp) (by simp) (.inl rfl)
  · exact ha.after_keepsSettled hl rfl (by simp [Event.keepsSettled]) (.inl rfl)
  · exact ha.after_keepsSettled hl (es := []) (by simp) (by simp) (.inl rfl)
  · exact ha.after_runEdge hl hr

/-! ### What every run keeps -/

/-- What every step keeps holds at the end of every run. -/
theorem runSteps_keeps {P : State → Prop} (hstep : ∀ s t, P s → step s = .next t → P t) {k : Nat}
    (h : P s) (hr : runSteps k s = .next t) : P t := by
  induction k generalizing s with
  | zero => cases hr; exact h
  | succ k ih =>
    simp only [runSteps] at hr
    cases hs : step s with
    | next u =>
      simp only [hs] at hr
      exact ih (hstep s u h hs) hr
    | fault r => simp [hs] at hr
    | refused r => simp [hs] at hr

end Sys2Proof.Machine

/-! ### The obligations -/

namespace Sys2Proof.Proofs.BusDriverFamily

open Sys2Proof.Machine

/-- Settles O37: the positions at which the rule asks for a Settle are those a settle wait leads to, and what
comes between emits nothing the rule speaks of. -/
theorem settleRuleKept : Obligations.SettleRuleKept :=
  fun _ _ h hs => h.after_step hs

/-- Settles O19, by induction on the edges of the wait. -/
theorem settleWaitCountsDown : Obligations.SettleWaitCountsDown := by
  rintro s c ha hd hv hset rfl hc
  obtain ⟨m, hm, hwait⟩ := runEdge_settling hset
  exact ⟨fun k hk => settleWait_counts ha hd hv hwait hk, m, hm, settleWait_ends ha hd hv hwait hc⟩

/-- Settles O20: the run to the sample step, and the sample step in either use of the value. -/
theorem memReadRuns : Obligations.MemReadRuns := by
  intro s ha hd hv hm hmode hr hp
  have hrun := memRead_settles ha hd hv hp hm hmode hr
  obtain ⟨t, ht, hsam, hreturned, hcode⟩ :=
    sampleEdge_of_atRead (s := settledAt .input (readOperand s) .readSample s) hr hv
  refine ⟨t, runSteps_concat hrun (step_of_runEdge ha hd hv ht), ?_, hsam.ddir, hsam.addr,
    hsam.mode.trans hmode, hsam.dout, hsam.settleCnt, hsam.micro, hsam.dstate.trans hd, hsam.cmd,
    hsam.status, hsam.params, hsam.env, hsam.clocks, hreturned, hcode⟩
  rw [hsam.trace]
  simp [settledAt, readEvents, sampledByte]

/-- Settles O21: legal states are in Write mode only in the Select phase, and a read that starts in Write mode
is a fault. -/
theorem readInWriteModeFaults : Obligations.ReadInWriteModeFaults := by
  refine ⟨fun s h hr => h.mode_read_of_atRead hr, fun s hrst hd hv hm hr hmode => ?_⟩
  have hnext : nextEdge (advanceInputs s) = beginRead (advanceInputs s) := nextEdge_of_atRead hr
  simp [step_run hrst hd hv, runEdge, hm, hnext, beginRead, hmode]

/-- Settles O22: the run to the drive step, and the drive step. -/
theorem memWriteKeepsMode : Obligations.MemWriteKeepsMode := by
  intro s ha hd hv hm hmode hph hp
  have hdrive : runEdge (settledAt .output bankSelectAddr .writeDrive s) =
      .next (selectData (settledAt .output bankSelectAddr .writeDrive s)) := rfl
  refine (runSteps_concat (memWrite_settles ha hd hv hp hm hmode hph)
    (step_of_runEdge ha hd hv hdrive)).trans ?_
  simp [selectData, driveData, settledAt, emit, writeOperand, bankSelectAddr]

/-- Settles O40: every step keeps the three rules with what the positions ask of the trace. -/
theorem everyTraceObeysTheRules : Obligations.EveryTraceObeysTheRules := by
  intro s t k h hr
  have hsettle : t.SettleSafe := runSteps_keeps (fun _ _ => State.SettleSafe.after_step) h.settleSafe hr
  have haddress : t.AddressSafe :=
    runSteps_keeps (fun _ _ => State.AddressSafe.after_step) h.addressSafe hr
  have hresponse : t.ResponseSafe :=
    runSteps_keeps (fun _ _ => State.ResponseSafe.after_step) h.responseSafe hr
  exact ⟨hsettle.rule, haddress.rule, hresponse.rule⟩

/-- Settles O41: at every event the checker remembers what the rule asks of the trace before it. -/
theorem settleCheckerDecidesRule : Obligations.SettleCheckerDecidesRule := by
  intro t
  rw [settleRule_iff]
  exact SettleScan.describes_nil.accepts_iff t

/-- Settles O43, by the micro-steps: each writes at most one bus register and emits its event. -/
theorem busChangesAreEvents : Obligations.BusChangesAreEvents := by
  intro s t hrst hs
  obtain ⟨hmode, haddr, hddir, hdout⟩ := busShown_step hrst hs
  exact ⟨hmode, haddr, hddir, hdout⟩

/-- Settles O18: of the environment a mode change reaches only the cartridge, and of that not the contents. -/
theorem setModeSetsModeOnly : Obligations.SetModeSetsModeOnly :=
  fun _ _ _ => ⟨_, rfl, onMode_cells _ _ _ _ _, rfl, rfl, rfl, rfl⟩

end Sys2Proof.Proofs.BusDriverFamily
end

section
/-! PROOFS. The family of spec/42_bank_switcher.md: the bank count of every ROM-size code, the value driven for
a bank index, and selectBank as a run. -/

namespace Sys2Proof.Machine

variable {s : State}

/-! ### The bank count -/

/-- The power of two of a low ROM-size code fits BANK_W bits (R130). -/
theorem two_pow_code_le {code : Byte} (h : code ≤ 0x07#8) : 2 ^ (code.toNat + 1) ≤ 256 := by
  have hcode : code.toNat + 1 ≤ 8 := Nat.succ_le_succ (BitVec.le_def.mp h)
  exact Nat.pow_le_pow_right Nat.two_pos hcode

/-- The codes up to 0x07 count by powers of two, without loss in BANK_W bits (R130). -/
theorem bankCount_low {code : Byte} (h : code ≤ 0x07#8) :
    (bankCount code).map BitVec.toNat = some (2 ^ (code.toNat + 1)) := by
  have hlt : 2 ^ (code.toNat + 1) < 512 := (two_pow_code_le h).trans_lt (by decide)
  simp [bankCount, h, Nat.mod_eq_of_lt hlt]

/-- Past 0x07 only three codes have a count (R130). -/
theorem bankCount_eq_none {code : Byte} (h : 0x07#8 < code) (h72 : code ≠ 0x52#8)
    (h80 : code ≠ 0x53#8) (h96 : code ≠ 0x54#8) : bankCount code = none := by
  simp [bankCount, BitVec.not_le.mpr h, h72, h80, h96]

/-- A bank count is at most 256 (R130). -/
theorem bankCount_le {code : Byte} {n : BankNo} (h : bankCount code = some n) : n.toNat ≤ 256 := by
  by_cases hlow : code ≤ 0x07#8
  · have hn : n.toNat = 2 ^ (code.toNat + 1) := by simpa [h] using bankCount_low hlow
    exact hn.trans_le (two_pow_code_le hlow)
  · simp only [bankCount, if_neg hlow] at h
    split_ifs at h <;> cases h <;> decide

/-! ### The bank index on the data lines -/

/-- The data lines carry a bank index mod 256 (R132). -/
theorem toNat_trunc8 (n : BankNo) : (trunc8 n).toNat = n.toNat % 256 :=
  BitVec.toNat_setWidth 8 n

/-! ### selectBank -/

/-- In the Select phase `Next()` starts selectBank (R153). -/
theorem nextEdge_select (h : s.phase = .select) : nextEdge s = beginSelect s := by
  simp only [nextEdge, h]

/-- `s` after the Write pulse of selectBank, back in Read mode with the iterator at the bank window: the
cartridge has seen the mode change on the lines as they stand (R131, R153, log 5). -/
def afterPulse (s : State) : State :=
  { s with
    mode := .read
    settleCnt := 0
    micro := .none
    phase := .bankWin
    cur := zext17 bankWinFirst
    endAddr := bankWinLast
    env := { s.env with cart := s.env.cart.onMode .write s.addr s.ddir s.dout }
    trace := s.trace ++ [.mode .write, .settle, .mode .read]
    clocks := s.clocks + s.params.settleCycles + 2 }

/-- The Write pulse: SetMode(Write), a settle wait, SetMode(Read) (R131, R133). -/
theorem runSteps_afterPulse (ha : s.attended) (hd : s.dstate = .executing) (hv : s.rspValid = false)
    (hm : s.micro = .pulseWrite) (hp : 1 ≤ s.params.settleCycles) :
    runSteps (s.params.settleCycles + 2) s = .next (afterPulse s) := by
  have hpulse : step s = .next (selectPulse s) :=
    step_of_runEdge ha hd hv (by simp only [runEdge, hm])
  have hwait : ∀ u : State, u.micro = .pulseSettle → runEdge u = .next (settleEdge .pulseRead u) :=
    fun u hu => by simp only [runEdge, hu]
  have hsettle := settleWait_ends (s := selectPulse s) ha hd hv hwait hp
  rw [runSteps_succ _ hpulse]
  refine (runSteps_concat hsettle (step_of_runEdge ha hd hv rfl)).trans ?_
  simp [afterPulse, selectEnd, selectPulse, loadSettle, setMode, emit, Cart.onMode,
    Nat.add_right_comm]

/-- `s` after selectBank(BANK): the bus registers as its last primitive left them, the cartridge's bank
register at the byte driven, and the iterator at the bank window (R131, R153, log 5). -/
def bankSelected (s : State) : State :=
  { s with
    mode := .read
    ddir := .output
    addr := bankSelectAddr
    dout := trunc8 s.bank
    settleCnt := 0
    micro := .none
    phase := .bankWin
    cur := zext17 bankWinFirst
    endAddr := bankWinLast
    env := { s.env with cart := { s.env.cart with bankReg := trunc8 s.bank } }
    trace := s.trace ++ selectEvents s.bank
    clocks := s.clocks + 2 * s.params.settleCycles + 5 }

/-- selectBank is its MemWrite and then its Write pulse (R131). -/
theorem runSteps_bankSelected (ha : s.attended) (hd : s.dstate = .executing) (hv : s.rspValid = false)
    (hm : s.micro = .none) (hmode : s.mode = .read) (hph : s.phase = .select)
    (hp : 1 ≤ s.params.settleCycles) :
    runSteps (2 * s.params.settleCycles + 5) s = .next (bankSelected s) := by
  have hwrite := Proofs.BusDriverFamily.memWriteKeepsMode s ha hd hv hm hmode hph hp
  have hrun := runSteps_add _ _ hwrite (runSteps_afterPulse ha hd hv rfl hp)
  rw [show 2 * s.params.settleCycles + 5 =
    s.params.settleCycles + 3 + (s.params.settleCycles + 2) by omega]
  refine hrun.trans ?_
  simp [afterPulse, bankSelected, selectEvents, bankSelectAddr, Cart.onMode]
  omega

end Sys2Proof.Machine

/-! ### The obligations -/

namespace Sys2Proof.Proofs.BankSwitcherFamily

open Sys2Proof.Machine

/-- Settles O23: the run of selectBank, which reaches of the environment only the cartridge's bank
register. -/
theorem selectBankRuns : Obligations.SelectBankRuns := by
  intro s ha hd hv hm hmode hph hp
  refine ⟨(bankSelected s).env, ?_, rfl, rfl, rfl⟩
  rw [runSteps_bankSelected ha hd hv hm hmode hph hp]
  simp only [bankSelected, hm]
  rfl

/-- Settles O24: the Select phase starts selectBank, which asserts Read mode. -/
theorem selectInWriteModeFaults : Obligations.SelectInWriteModeFaults := by
  intro s hrst hd hv hm hph hmode
  have hnext : nextEdge (advanceInputs s) = beginSelect (advanceInputs s) := nextEdge_select hph
  simp [step_run hrst hd hv, runEdge, hm, hnext, beginSelect, hmode]

/-- Settles O25: the drive step truncates BANK to the data lines. -/
theorem bankIndexTruncated : Obligations.BankIndexTruncated :=
  ⟨fun s => toNat_trunc8 s.bank, rfl⟩

/-- Settles O26: the table by its ranges of codes, and the bounds of a count that exists. -/
theorem bankCountTable : Obligations.BankCountTable := by
  intro code
  refine ⟨bankCount_low, ?_, ?_, ?_, bankCount_eq_none, fun n h => ⟨?_, bankCount_le h⟩⟩
  · rintro rfl; rfl
  · rintro rfl; rfl
  · rintro rfl; rfl
  · exact BitVec.le_def.mp (one_le_bankCount h)

end Sys2Proof.Proofs.BankSwitcherFamily
end

section
/-! PROOFS. The family of spec/43_region_reader.md: the moves of the iterator's phases, the ROM-size code, a
contiguous range as a run, and the whole of DUMP with its events and its response. -/

namespace Sys2Proof.Machine

variable {s t : State}

/-! ### The ROM-size code -/

/-- A supported code gives NBANKS its count and starts at bank 1 (R153 `RomSize`). -/
theorem resolveBanks_of_some {code : Byte} {n : BankNo} (h : bankCount code = some n) (s : State) :
    resolveBanks code s = { s with romcode := code, nbanks := n, bank := 1#9, phase := .select } := by
  simp [resolveBanks, h]

/-- An unsupported code ends the iterator with abort (R155). -/
theorem resolveBanks_of_none {code : Byte} (h : bankCount code = none) (s : State) :
    resolveBanks code s = finish .aborted { s with romcode := code } := by
  simp [resolveBanks, h]

/-- The sample step of the RomSize phase (R154). -/
theorem sampleEdge_romSize (h : s.phase = .romSize) :
    sampleEdge s = .next (resolveBanks (sampledByte s) (sampleBus s)) := by
  simp only [sampleEdge, h]

/-! ### The moves of the iterator -/

/-- What an Execute step does to PHASE, BANK and NBANKS: it leaves them, or makes one of the moves of R158. -/
inductive IteratorMove (s t : State) : Prop
  | stays (hphase : t.phase = s.phase) (hbank : t.bank = s.bank) (hnbanks : t.nbanks = s.nbanks)
  | regionEnds (hfrom : s.phase = .single ∨ s.phase = .range) (hto : t.phase = .done)
      (hend : t.iterEnd = .ended)
  | baseEnds (hfrom : s.phase = .base) (hto : t.phase = .romSize)
  | codeSupported (hfrom : s.phase = .romSize) (hto : t.phase = .select) (hbank : t.bank = 1#9)
      (hcount : bankCount t.romcode = some t.nbanks)
  | codeUnsupported (hfrom : s.phase = .romSize) (hto : t.phase = .done) (hend : t.iterEnd = .aborted)
  | bankSelected (hfrom : s.phase = .select) (hto : t.phase = .bankWin) (hbank : t.bank = s.bank)
      (hnbanks : t.nbanks = s.nbanks)
  | nextBank (hfrom : s.phase = .bankWin) (hto : t.phase = .select) (hlt : s.bank < s.nbanks)
      (hbank : t.bank = s.bank + 1#9) (hnbanks : t.nbanks = s.nbanks)
  | lastBankEnds (hfrom : s.phase = .bankWin) (hto : t.phase = .done) (hlast : s.bank = s.nbanks)
      (hbank : t.bank = s.bank) (hnbanks : t.nbanks = s.nbanks) (hend : t.iterEnd = .ended)
  | commandEnds (hfrom : s.phase = .none ∨ s.phase = .done) (hto : t.phase = .none)

/-- A step that keeps the control registers keeps the iterator's. -/
theorem SameControl.iteratorMove (h : SameControl s t) : IteratorMove s t :=
  .stays h.phase h.bank h.nbanks

/-- In a legal state BANK does not pass NBANKS while a bank window is read (R153). -/
theorem State.Legal.bank_le_nbanks (h : s.Legal) (hp : s.phase = .bankWin) : s.bank ≤ s.nbanks := by
  have hi := h.iteratorOk
  simp only [iteratorFits, hp, banksResolved, Bool.and_eq_true, decide_eq_true_eq] at hi
  exact hi.2.2

/-- `Next()` between two primitives (R151 to R153). -/
theorem State.Legal.iteratorMove_nextEdge (h : s.Legal) (hn : nextEdge s = .next t) :
    IteratorMove s t := by
  rcases nextEdge_next hn with ⟨-, -, rfl⟩ | ⟨-, -, rfl⟩ | ⟨hp, rfl⟩ | ⟨hp, -, rfl⟩ |
    ⟨hp, -, hlt, rfl⟩ | ⟨hp | ⟨hp, hnlt⟩, -, rfl⟩
  · exact (sameControl_driveDir _ _ s).iteratorMove
  · exact (sameControl_driveDir _ _ s).iteratorMove
  · exact .commandEnds (hp.imp_left And.left) rfl
  · exact .baseEnds hp rfl
  · exact .nextBank hp rfl hlt rfl rfl
  · exact .regionEnds (.inr hp) rfl rfl
  · have hle : s.bank ≤ s.nbanks := h.bank_le_nbanks hp
    exact .lastBankEnds hp rfl (BitVec.le_antisymm hle (BitVec.not_lt.mp hnlt)) rfl rfl rfl

/-- The sample step (R151 to R155). -/
theorem iteratorMove_sampleEdge (hn : sampleEdge s = .next t) : IteratorMove s t := by
  rcases sampleEdge_next hn with ⟨hp, rfl⟩ | ⟨-, rfl⟩ | ⟨hp, rfl⟩
  · exact .regionEnds (.inl hp) rfl rfl
  · exact .stays rfl rfl rfl
  · rcases resolveBanks_cases (sampledByte s) (sampleBus s) with ⟨n, hcount, he⟩ | ⟨-, he⟩ <;> rw [he]
    · exact .codeSupported hp rfl rfl hcount
    · exact .codeUnsupported hp rfl rfl

/-- Every Execute step with no byte waiting (R158). -/
theorem State.Legal.iteratorMove_runEdge (h : s.Legal) (hr : runEdge s = .next t) :
    IteratorMove s t := by
  rcases runEdge_next hr with ⟨-, hn⟩ | ⟨-, rfl⟩ | ⟨-, rfl⟩ | ⟨-, hn⟩ | ⟨-, rfl⟩ | ⟨-, rfl⟩ |
    ⟨-, rfl⟩ | ⟨-, rfl⟩ | ⟨-, rfl⟩ | ⟨hm, rfl⟩
  · exact h.iteratorMove_nextEdge hn
  · exact (sameControl_driveAddr _ _ s).iteratorMove
  · exact (sameControl_settleEdge _ s).iteratorMove
  · exact iteratorMove_sampleEdge hn
  · exact (sameControl_driveAddr _ _ s).iteratorMove
  · exact (sameControl_settleEdge _ s).iteratorMove
  · exact (sameControl_driveData _ _ s).iteratorMove
  · exact (sameControl_selectPulse s).iteratorMove
  · exact (sameControl_settleEdge _ s).iteratorMove
  · have hpos := h.positionOk
    simp only [positionFits, hm, Bool.and_eq_true, beq_iff_eq] at hpos
    obtain ⟨⟨⟨hp, -⟩, -⟩, -⟩ := hpos
    exact .bankSelected hp rfl rfl rfl

/-- Every Execute step, those at which a byte waits among them (R158). -/
theorem State.Legal.iteratorMove_step (h : s.Legal) (hrst : s.env.pins.rst = false)
    (hd : s.dstate = .executing) (hs : step s = .next t) : IteratorMove (advanceInputs s) t := by
  rcases step_next hs with ⟨hr, -⟩ | ⟨-, hi, -⟩ | ⟨-, -, ⟨-, -, rfl⟩ | ⟨-, -, rfl⟩ | ⟨-, hr⟩⟩
  · simp [hrst] at hr
  · simp [hd] at hi
  · exact .stays rfl rfl rfl
  · exact .stays rfl rfl rfl
  · exact h.after_advanceInputs.iteratorMove_runEdge hr

/-- A phase may stay as it is. -/
theorem phaseStep_self (p : Phase) : phaseStep p p = true := by cases p <;> rfl

/-! ### Between two primitives -/

/-- An attended block executes with no primitive in progress and no byte waiting: the next edge is `Next()`. -/
structure State.AtNext (s : State) : Prop where
  attended : s.attended
  executing : s.dstate = .executing
  noByte : s.rspValid = false
  noPrimitive : s.micro = .none
  modeRead : s.mode = .read
  settleCycles : 1 ≤ s.params.settleCycles

/-- The next edge of such a block is `Next()` (R33). -/
theorem State.AtNext.step_eq (h : s.AtNext) : step s = nextEdge s := by
  rw [step_attended_run h.attended h.executing h.noByte]
  simp only [runEdge, h.noPrimitive]

/-- MemRead up to its sample step, from `Next()` (R103). -/
theorem State.AtNext.memRead_settles (h : s.AtNext) (hr : atRead s = true) :
    runSteps (s.params.settleCycles + 2) s =
      .next (settledAt .input (readOperand s) .readSample s) :=
  Machine.memRead_settles h.attended h.executing h.noByte h.settleCycles h.noPrimitive h.modeRead hr

/-! ### A contiguous range as a run -/

/-- The phases that emit a contiguous range (R152, R153). -/
def Phase.contiguous (p : Phase) : Prop := p = .range ∨ p = .base ∨ p = .bankWin

theorem rangeLeft_iff : rangeLeft s = true ↔ s.cur.toNat ≤ s.endAddr.toNat := by
  have hlt : s.endAddr.toNat < 2 ^ 17 := by omega
  simp [rangeLeft, zext17, BitVec.le_def]
  omega

/-- In a contiguous phase with an address left, `Next()` reads it. -/
theorem atRead_of_contiguous (hp : s.phase.contiguous) (hl : rangeLeft s = true) : atRead s = true := by
  rcases hp with hp | hp | hp <;> simpa only [atRead, hp] using hl

/-- The address of a contiguous phase is CUR (R152, R153). -/
theorem readOperand_of_contiguous (hp : s.phase.contiguous) : readOperand s = trunc16 s.cur := by
  rcases hp with hp | hp | hp <;> simp only [readOperand, hp]

/-- A contiguous phase returns the byte it samples (R152, R153). -/
theorem sampleEdge_of_contiguous (hp : s.phase.contiguous) :
    sampleEdge s = .next (returnNext (sampledByte s) (sampleBus s)) := by
  rcases hp with hp | hp | hp <;> simp only [sampleEdge, hp]

/-- The address of the `i`-th byte of the range that is left, counted from 0. -/
def rangeAddr (s : State) (i : Nat) : Word16 := trunc16 s.cur + BitVec.ofNat 16 i

/-- The byte the environment shows there, at the `i`-th sample from now. -/
def rangeByte (s : State) (i : Nat) : Byte :=
  byteAt s.env.cart.cells s.env.cart.bankReg (s.env.draws + i) (rangeAddr s i)

/-- `s` after `n + 1` bytes of the range it is in, each sampled and sent (R152, R153, R182). -/
def rangeRead (n : Nat) (s : State) : State :=
  { s with
    ddir := .input
    addr := rangeAddr s n
    rsp := rangeByte s n
    cur := s.cur + BitVec.ofNat 17 (n + 1)
    settleCnt := 0
    micro := .none
    env := { s.env with draws := s.env.draws + (n + 1) }
    trace := s.trace ++
      rangeEvents s.env.cart.cells s.env.cart.bankReg s.env.draws (trunc16 s.cur) (n + 1)
    clocks := s.clocks + (n + 1) * (s.params.settleCycles + 4) }

theorem State.AtNext.after_rangeRead (h : s.AtNext) (n : Nat) : (rangeRead n s).AtNext :=
  { h with noPrimitive := rfl }

/-- CUR does not wrap inside a range (R31). -/
theorem cur_toNat_rangeRead {n : Nat} (hl : s.cur.toNat + n ≤ s.endAddr.toNat) :
    (rangeRead n s).cur.toNat = s.cur.toNat + (n + 1) := by
  have hlt : s.endAddr.toNat < 2 ^ 16 := s.endAddr.isLt
  simp [rangeRead]
  omega

@[simp] theorem trunc16_rangeRead_cur (n : Nat) (s : State) :
    trunc16 (rangeRead n s).cur = rangeAddr s (n + 1) := by
  simp [trunc16, rangeAddr, rangeRead, BitVec.setWidth_add]

theorem rangeEvents_one (cells : Memory) (b : Byte) (d : Nat) (a : Word16) :
    rangeEvents cells b d a 1 = sentEvents a (byteAt cells b d a) := by
  simp [rangeEvents]

theorem rangeEvents_succ (cells : Memory) (b : Byte) (d : Nat) (a : Word16) (n : Nat) :
    rangeEvents cells b d a (n + 1) = rangeEvents cells b d a n ++
      sentEvents (a + BitVec.ofNat 16 n) (byteAt cells b (d + n) (a + BitVec.ofNat 16 n)) := by
  simp [rangeEvents, List.range_succ]

/-- MemRead in a contiguous range, which leaves its byte to be sent (R103, R152, R153). -/
theorem State.AtNext.runSteps_returnNext (h : s.AtNext) (hp : s.phase.contiguous)
    (hl : rangeLeft s = true) :
    runSteps (s.params.settleCycles + 3) s =
      .next (returnNext (rangeByte s 0)
        (sampleBus (settledAt .input (trunc16 s.cur) .readSample s))) := by
  have hsettled := h.memRead_settles (atRead_of_contiguous hp hl)
  rw [readOperand_of_contiguous hp] at hsettled
  have hsample := step_of_runEdge h.attended h.executing h.noByte
    (s := settledAt .input (trunc16 s.cur) .readSample s) (sampleEdge_of_contiguous hp)
  refine (runSteps_concat hsettled hsample).trans ?_
  simp [rangeByte, rangeAddr, sampledByte, settledAt, busByte_eq_byteAt]

/-- One byte of a contiguous range: MemRead, and the Send of what it sampled (R152, R153, R182). -/
theorem State.AtNext.runSteps_rangeRead_zero (h : s.AtNext) (hp : s.phase.contiguous)
    (hl : rangeLeft s = true) :
    runSteps (s.params.settleCycles + 4) s = .next (rangeRead 0 s) := by
  have hsend := step_attended_send (s := returnNext (rangeByte s 0)
    (sampleBus (settledAt .input (trunc16 s.cur) .readSample s))) h.attended h.executing rfl
  refine (runSteps_concat (h.runSteps_returnNext hp hl) hsend).trans ?_
  simp [byteTaken, returnNext, offerByte, sampleBus, sampledByte, settledAt, emit, rangeRead,
    rangeAddr, rangeByte, rangeEvents_one, sentEvents, readEvents, busByte_eq_byteAt, h.noByte,
    Nat.add_assoc]

/-- One more byte after some is the next byte of the range. -/
theorem rangeRead_zero_rangeRead (n : Nat) (s : State) :
    rangeRead 0 (rangeRead n s) = rangeRead (n + 1) s := by
  have haddr : rangeAddr (rangeRead n s) 0 = rangeAddr s (n + 1) := by simp [rangeAddr]
  have hbyte : rangeByte (rangeRead n s) 0 = rangeByte s (n + 1) := by
    rw [rangeByte, haddr]; rfl
  have hcur : s.cur + BitVec.ofNat 17 (n + 1) + 1#17 = s.cur + BitVec.ofNat 17 (n + 2) := by
    rw [BitVec.add_assoc, ← BitVec.ofNat_add]
  have hclocks : s.clocks + (n + 1) * (s.params.settleCycles + 4) + (s.params.settleCycles + 4) =
      s.clocks + (n + 2) * (s.params.settleCycles + 4) := by
    rw [Nat.add_assoc, ← Nat.succ_mul]
  rw [rangeRead, haddr, hbyte, trunc16_rangeRead_cur, rangeEvents_one]
  simp [rangeRead, hcur, hclocks, rangeEvents_succ _ _ _ _ (n + 1), rangeAddr, rangeByte,
    Nat.add_assoc]

/-- A contiguous range as far as its `n + 1`-st byte (R152, R153). -/
theorem State.AtNext.runSteps_rangeRead (h : s.AtNext) (hp : s.phase.contiguous) {n : Nat}
    (hl : s.cur.toNat + n ≤ s.endAddr.toNat) :
    runSteps ((n + 1) * (s.params.settleCycles + 4)) s = .next (rangeRead n s) := by
  induction n with
  | zero =>
    rw [Nat.zero_add, Nat.one_mul]
    exact h.runSteps_rangeRead_zero hp (rangeLeft_iff.mpr hl)
  | succ n ih =>
    have hleft : rangeLeft (rangeRead n s) = true := by
      rw [rangeLeft_iff, cur_toNat_rangeRead (by omega)]
      exact hl
    have hnext := (h.after_rangeRead n).runSteps_rangeRead_zero hp hleft
    rw [Nat.succ_mul, ← rangeRead_zero_rangeRead]
    exact runSteps_add _ _ (ih (by omega)) hnext

/-- CUR past END leaves nothing of the range (R152). -/
theorem rangeLeft_rangeRead_last {n : Nat} (hl : s.cur.toNat + n = s.endAddr.toNat) :
    rangeLeft (rangeRead n s) = false := by
  rw [Bool.eq_false_iff, Ne, rangeLeft_iff, cur_toNat_rangeRead hl.le]
  change ¬ s.cur.toNat + (n + 1) ≤ s.endAddr.toNat
  omega

/-! ### The end of a command -/

/-- What every step keeps, a reached state has. -/
theorem Reaches.legal (h : Reaches s t) (hs : s.Legal) : t.Legal := by
  obtain ⟨k, hk⟩ := h
  exact runSteps_keeps (fun _ _ => State.Legal.after_step) hs hk

/-- In Done the dispatcher ends the command, whatever the outcome (R180, R181, R221). -/
theorem State.AtNext.reaches_endCommand (h : s.AtNext) (hp : s.phase = .done) :
    Reaches s (endCommand s) := by
  refine .of_step (h.step_eq.trans ?_)
  cases he : s.iterEnd <;> simp only [nextEdge, hp, he, abortCommand]

/-- `End()` in the status bracket closes it (R183). -/
theorem trace_endCommand (h : s.status = .blinking) :
    (endCommand s).trace = s.trace ++ [.status .off] := by
  simp [endCommand, h, bracketEnd]

/-- What `End()` between two primitives leaves behind (R181, R194). -/
theorem State.AtNext.finished {s u : State} (h : u.AtNext) (hl : (endCommand u).Legal)
    (hrx : u.env.rx = s.env.rx.tail) (hc : u.env.cart.cells = s.env.cart.cells)
    (hp : u.params = s.params) : Finished s (endCommand u) where
  legal := hl
  idle := rfl
  modeRead := h.modeRead
  statusOff := rfl
  attended := h.attended
  rx := hrx
  cells := hc
  params := hp

/-! ### DUMP up to the ROM-size code -/

/-- `s` after the edge that accepts 0x07 (R180, R191). -/
def dumpStarted (s : State) : State := initBanked (statusOn (beginCommand 0x07#8 (takeByte 0x07#8 s)))

theorem State.Ready.atNext_dumpStarted (h : s.Ready 0x07#8) : (dumpStarted s).AtNext := by
  obtain ⟨-, hmicro, hvalid, -⟩ := h.legal.idleOk h.idle
  have hmode : s.mode = .read := (h.legal.busAtRest hmicro).mode
  obtain ⟨hpins, hupcoming⟩ := h.attended
  constructor
  case executing => rfl
  case settleCycles => simpa [dumpStarted, initBanked] using h.legal.paramsOk.1
  all_goals simp [dumpStarted, initBanked, State.attended, hpins, hupcoming, hvalid, hmicro, hmode]

/-- A block at rest takes the byte 0x07 as the start of DUMP (R191). -/
theorem State.Ready.reaches_dumpStarted (h : s.Ready 0x07#8) : Reaches s (dumpStarted s) :=
  .of_step (step_attended_take h.attended h.idle h.next)

/-- `s` after the base window of a DUMP, at the read of the ROM-size code (R153). -/
def baseRead (s : State) : State := { rangeRead 0x3FFF (dumpStarted s) with phase := .romSize }

theorem State.Ready.atNext_baseRead (h : s.Ready 0x07#8) : (baseRead s).AtNext :=
  { h.atNext_dumpStarted.after_rangeRead 0x3FFF with }

/-- The base window is read to its end, and the ROM-size read comes next (R153 `Base`). -/
theorem State.Ready.reaches_baseRead (h : s.Ready 0x07#8) : Reaches s (baseRead s) := by
  have hstart : (dumpStarted s).AtNext := h.atNext_dumpStarted
  have hall : (dumpStarted s).cur.toNat + 0x3FFF = (dumpStarted s).endAddr.toNat := by
    simp [dumpStarted, initBanked, zext17, baseFirst, baseLast]
  have hwindow : Reaches (dumpStarted s) (rangeRead 0x3FFF (dumpStarted s)) :=
    ⟨_, hstart.runSteps_rangeRead (.inr (.inl rfl)) hall.le⟩
  have hend : step (rangeRead 0x3FFF (dumpStarted s)) = .next (baseRead s) := by
    have hphase : (rangeRead 0x3FFF (dumpStarted s)).phase = .base := rfl
    rw [(hstart.after_rangeRead 0x3FFF).step_eq]
    simp only [nextEdge, hphase, rangeLeft_rangeRead_last hall, baseRead]
    rfl
  exact h.reaches_dumpStarted.trans (hwindow.trans (.of_step hend))

/-- `s` after the sample of the ROM-size code, before its bank count is looked up (R154). -/
def codeSampled (s : State) : State := sampleBus (settledAt .input romSizeAddr .readSample s)

/-- MemRead of the ROM-size code: the byte is resolved, not sent (R153 `RomSize`, R154). -/
theorem State.AtNext.reaches_resolveBanks (h : s.AtNext) (hp : s.phase = .romSize) :
    Reaches s (resolveBanks (s.env.busByte romSizeAddr) (codeSampled s)) := by
  have hread : atRead s = true := by simp only [atRead, hp]
  have haddr : readOperand s = romSizeAddr := by simp only [readOperand, hp]
  have hsettled := h.memRead_settles hread
  rw [haddr] at hsettled
  have hsample := step_of_runEdge h.attended h.executing h.noByte
    (s := settledAt .input romSizeAddr .readSample s) (sampleEdge_romSize hp)
  exact ⟨_, runSteps_concat hsettled hsample⟩

/-- The code a DUMP reads is the sample that follows the base window (R154). -/
theorem busByte_baseRead (s : State) : (baseRead s).env.busByte romSizeAddr =
    dumpCode s.env.cart.cells s.env.cart.bankReg s.env.draws := by
  rw [busByte_eq_byteAt]
  simp only [baseRead, rangeRead, dumpStarted, dumpCode]
  rfl

theorem State.Ready.reaches_resolveBanks (h : s.Ready 0x07#8) :
    Reaches s (resolveBanks (dumpCode s.env.cart.cells s.env.cart.bankReg s.env.draws)
      (codeSampled (baseRead s))) := by
  rw [← busByte_baseRead]
  exact h.reaches_baseRead.trans (h.atNext_baseRead.reaches_resolveBanks rfl)

theorem State.AtNext.after_codeSampled (h : s.AtNext) : (codeSampled s).AtNext :=
  { h with noPrimitive := rfl }

/-- The events of the read of the ROM-size code (R103, R154). -/
theorem trace_codeSampled (s : State) : (codeSampled s).trace =
    s.trace ++ readEvents romSizeAddr (s.env.busByte romSizeAddr) := by
  simp [codeSampled, sampleBus, settledAt, sampledByte, readEvents]

/-- The events of DUMP as far as the base window's end (R153, R191). -/
theorem trace_baseRead (s : State) : (baseRead s).trace =
    s.trace ++ [.accept 0x07#8, .status .blinking] ++
      rangeEvents s.env.cart.cells s.env.cart.bankReg s.env.draws baseFirst 0x4000 := by
  simp [baseRead, rangeRead, dumpStarted, initBanked, statusOn, beginCommand]

/-- The events of DUMP as far as the ROM-size code (R153, R154, R191). -/
theorem trace_codeSampled_baseRead (s : State) : (codeSampled (baseRead s)).trace =
    s.trace ++ dumpHead s.env.cart.cells s.env.cart.bankReg s.env.draws := by
  rw [trace_codeSampled, trace_baseRead, busByte_baseRead]
  simp [dumpHead]

theorem State.AtNext.after_finish (h : s.AtNext) (e : IterEnd) : (finish e s).AtNext := { h with }

/-- What DUMP has taken from the environment by then: its command byte, and the samples of the base window and
of the ROM-size code (R157). -/
theorem env_codeSampled_baseRead (s : State) : (codeSampled (baseRead s)).env =
    { s.env with rx := s.env.rx.tail, draws := s.env.draws + 0x4001 } := by
  simp [codeSampled, sampleBus, settledAt, baseRead, rangeRead, dumpStarted, initBanked, statusOn,
    beginCommand]

/-- `u` is `s` after the acceptance of 0x07, the base window and the sample of the ROM-size code, before that
code is looked up (R153, R154, R191). -/
structure CodeRead (s u : State) : Prop extends State.AtNext u where
  trace : u.trace = s.trace ++ dumpHead s.env.cart.cells s.env.cart.bankReg s.env.draws
  env : u.env = { s.env with rx := s.env.rx.tail, draws := s.env.draws + 0x4001 }
  status : u.status = .blinking
  params : u.params = s.params
  ddir : u.ddir = .input
  addr : u.addr = romSizeAddr
  dout : u.dout = s.dout

/-- What DUMP leaves of the registers it does not use to read, and its status bracket (R183, R191). -/
theorem frame_codeSampled_baseRead (s : State) : (codeSampled (baseRead s)).params = s.params ∧
    (codeSampled (baseRead s)).dout = s.dout ∧ (codeSampled (baseRead s)).status = .blinking := by
  simp [codeSampled, sampleBus, settledAt, baseRead, rangeRead, dumpStarted, initBanked]

theorem State.Ready.codeRead (h : s.Ready 0x07#8) : CodeRead s (codeSampled (baseRead s)) := by
  obtain ⟨hparams, hdout, hstatus⟩ := frame_codeSampled_baseRead s
  exact { h.atNext_baseRead.after_codeSampled with
    trace := trace_codeSampled_baseRead s
    env := env_codeSampled_baseRead s
    status := hstatus
    params := hparams
    ddir := rfl
    addr := rfl
    dout := hdout }

/-- Every DUMP comes to the lookup of its ROM-size code (R153, R154). -/
theorem State.Ready.reaches_lookup (h : s.Ready 0x07#8) : ∃ u, CodeRead s u ∧
    Reaches s (resolveBanks (dumpCode s.env.cart.cells s.env.cart.bankReg s.env.draws) u) :=
  ⟨_, h.codeRead, h.reaches_resolveBanks⟩

/-- An unsupported code ends the region, and all else stays as the sample of the code left it (R155). -/
theorem CodeRead.after_abort {u : State} {code : Byte} (h : CodeRead s u) (hc : bankCount code = none) :
    CodeRead s (resolveBanks code u) ∧ (resolveBanks code u).phase = .done := by
  rw [resolveBanks_of_none hc]
  exact ⟨{ h with toAtNext := { h.toAtNext with } }, rfl⟩

/-! ### The bank windows of DUMP -/

theorem windowEvents_zero (cells : Memory) (d : Nat) : windowEvents cells d 0 = [] := rfl

theorem windowEvents_succ (cells : Memory) (d n : Nat) :
    windowEvents cells d (n + 1) = windowEvents cells d n ++ (selectEvents (bankIndex n) ++
      rangeEvents cells (trunc8 (bankIndex n)) (windowDraws d n) bankWinFirst 0x4000) := by
  simp only [windowEvents, List.range_succ, List.flatMap_append, List.flatMap_singleton]

theorem windowDraws_succ (d j : Nat) : windowDraws d (j + 1) = windowDraws d j + 0x4000 := by
  simp only [windowDraws]; omega

/-- Bank indices up to the count do not wrap in BANK_W bits (R31, R130). -/
theorem toNat_bankIndex {j : Nat} (h : j < 256) : (bankIndex j).toNat = j + 1 := by
  simp [bankIndex]; omega

/-- The next bank after some (R153). -/
theorem bankIndex_succ (j : Nat) : bankIndex j + 1#9 = bankIndex (j + 1) := by
  simp [bankIndex, BitVec.ofNat_add]

/-- `t` after the selection of its bank and the whole of the bank's window (R153). -/
def bankRead (t : State) : State := rangeRead 0x3FFF (bankSelected t)

theorem State.AtNext.after_bankSelected (h : s.AtNext) : (bankSelected s).AtNext :=
  { h with modeRead := rfl, noPrimitive := rfl }

theorem State.AtNext.after_bankRead (h : s.AtNext) : (bankRead s).AtNext :=
  h.after_bankSelected.after_rangeRead 0x3FFF

/-- The bank window has 0x4000 addresses (R16). -/
theorem bankSelected_window (s : State) :
    (bankSelected s).cur.toNat + 0x3FFF = (bankSelected s).endAddr.toNat := by
  simp [bankSelected, zext17, bankWinFirst, bankWinLast]

/-- At the end of a bank window nothing of it is left. -/
theorem rangeLeft_bankRead (s : State) : rangeLeft (bankRead s) = false :=
  rangeLeft_rangeRead_last (bankSelected_window s)

/-- From the Select phase the bank is selected and its window read (R153 `Select`, `BankWin`). -/
theorem State.AtNext.reaches_bankRead (h : s.AtNext) (hp : s.phase = .select) :
    Reaches s (bankRead s) := by
  have hselect : Reaches s (bankSelected s) :=
    ⟨_, runSteps_bankSelected h.attended h.executing h.noByte h.noPrimitive h.modeRead hp
      h.settleCycles⟩
  have hwindow := h.after_bankSelected.runSteps_rangeRead (.inr (.inr rfl))
    (bankSelected_window s).le
  exact hselect.trans ⟨_, hwindow⟩

/-- The events of one bank (R153). -/
theorem trace_bankRead (s : State) : (bankRead s).trace = s.trace ++ (selectEvents s.bank ++
    rangeEvents s.env.cart.cells (trunc8 s.bank) s.env.draws bankWinFirst 0x4000) := by
  simp [bankRead, rangeRead, bankSelected]

theorem env_bankRead (s : State) : (bankRead s).env =
    { s.env with
      cart := { s.env.cart with bankReg := trunc8 s.bank }, draws := s.env.draws + 0x4000 } := by
  simp [bankRead, rangeRead, bankSelected]

/-- The window of a bank ends at 0x7FFF (R16). -/
theorem addr_bankRead (s : State) : (bankRead s).addr = bankWinLast := by
  simp [bankRead, rangeRead, rangeAddr, bankSelected, bankWinFirst, bankWinLast]

/-- `t` is at the selection of the `j`-th of `n` banks, counted from 0, of the DUMP that `s` was about to
take (R153). -/
structure AtBank (n : BankNo) (s : State) (j : Nat) (t : State) : Prop extends State.AtNext t where
  phase : t.phase = .select
  bank : t.bank = bankIndex j
  nbanks : t.nbanks = n
  trace : t.trace = s.trace ++ dumpHead s.env.cart.cells s.env.cart.bankReg s.env.draws ++
    windowEvents s.env.cart.cells s.env.draws j
  draws : t.env.draws = windowDraws s.env.draws j
  cells : t.env.cart.cells = s.env.cart.cells
  rx : t.env.rx = s.env.rx.tail
  params : t.params = s.params
  status : t.status = .blinking

/-- A supported code leads to the first bank (R153 `RomSize`). -/
theorem CodeRead.atBank_zero {u : State} {code : Byte} {n : BankNo} (h : CodeRead s u)
    (hc : bankCount code = some n) : AtBank n s 0 (resolveBanks code u) := by
  rw [resolveBanks_of_some hc]
  exact { h with
    phase := rfl, bank := rfl, nbanks := rfl
    trace := h.trace.trans (List.append_nil _).symm
    draws := by rw [h.env]; rfl
    cells := by rw [h.env]
    rx := by rw [h.env] }

/-- The events of a DUMP as far as the end of a bank's window (R153). -/
theorem AtBank.trace_bankRead {n : BankNo} {j : Nat} (h : AtBank n s j t) : (bankRead t).trace =
    s.trace ++ dumpHead s.env.cart.cells s.env.cart.bankReg s.env.draws ++
      windowEvents s.env.cart.cells s.env.draws (j + 1) := by
  rw [Machine.trace_bankRead, h.trace, h.bank, h.cells, h.draws, windowEvents_succ]
  simp only [List.append_assoc]

/-- After its window a bank below the count is followed by the next (R153 `BankWin`). -/
theorem AtBank.next {n : BankNo} {j : Nat} (h : AtBank n s j t) (hj : j + 1 < n.toNat)
    (hn : n.toNat ≤ 256) : ∃ u, Reaches t u ∧ AtBank n s (j + 1) u := by
  have hnext : nextEdge (bankRead t) =
      .next { bankRead t with bank := (bankRead t).bank + 1#9, phase := .select } := by
    have hphase : (bankRead t).phase = .bankWin := rfl
    have hlt : (bankRead t).bank < (bankRead t).nbanks := by
      change t.bank < t.nbanks
      rw [h.bank, h.nbanks, BitVec.lt_def, toNat_bankIndex (by omega)]
      exact hj
    simp only [nextEdge, hphase, rangeLeft_bankRead, if_pos hlt]
    rfl
  have hread : (bankRead t).AtNext := h.after_bankRead
  refine ⟨_, (h.reaches_bankRead h.phase).trans (.of_step (hread.step_eq.trans hnext)),
    { hread with
      phase := rfl, bank := ?_, nbanks := h.nbanks, trace := h.trace_bankRead, draws := ?_
      cells := h.cells, rx := h.rx, params := h.params, status := h.status }⟩
  · rw [← bankIndex_succ, ← h.bank]; rfl
  · rw [windowDraws_succ, ← h.draws, env_bankRead]

/-- Every bank up to the count is reached (R153). -/
theorem AtBank.reaches {n : BankNo} {j : Nat} (h : AtBank n s 0 t) (hj : j < n.toNat)
    (hn : n.toNat ≤ 256) : ∃ u, Reaches t u ∧ AtBank n s j u := by
  induction j with
  | zero => exact ⟨t, ⟨0, rfl⟩, h⟩
  | succ j ih =>
    obtain ⟨u, hreach, hu⟩ := ih (by omega)
    obtain ⟨v, hnext, hv⟩ := hu.next hj hn
    exact ⟨v, hreach.trans hnext, hv⟩

/-- `t` is at the end of the region of the DUMP that `s` was about to take, its `n` banks read: the bus and the
cartridge's bank register are as the last of them left them (R153, log 5). -/
structure BanksRead (n : BankNo) (s t : State) : Prop extends State.AtNext t where
  phase : t.phase = .done
  trace : t.trace = s.trace ++ dumpHead s.env.cart.cells s.env.cart.bankReg s.env.draws ++
    windowEvents s.env.cart.cells s.env.draws n.toNat
  bank : t.bank = n
  nbanks : t.nbanks = n
  ddir : t.ddir = .input
  addr : t.addr = bankWinLast
  dout : t.dout = trunc8 n
  bankReg : t.env.cart.bankReg = trunc8 n
  cells : t.env.cart.cells = s.env.cart.cells
  rx : t.env.rx = s.env.rx.tail
  params : t.params = s.params
  status : t.status = .blinking

/-- After the window of the last bank the iterator ends (R153 `BankWin`). -/
theorem AtBank.last {n : BankNo} {j : Nat} (h : AtBank n s j t) (hj : j + 1 = n.toNat) :
    ∃ u, Reaches t u ∧ BanksRead n s u := by
  have hbank : t.bank = n := by
    rw [h.bank, bankIndex, hj, BitVec.ofNat_toNat, BitVec.setWidth_eq]
  have hlast : nextEdge (bankRead t) = .next (finish .ended (bankRead t)) := by
    have hphase : (bankRead t).phase = .bankWin := rfl
    have hnlt : ¬ (bankRead t).bank < (bankRead t).nbanks := by
      change ¬ t.bank < t.nbanks
      rw [hbank, h.nbanks]
      exact BitVec.lt_irrefl n
    simp only [nextEdge, hphase, rangeLeft_bankRead, if_neg hnlt]
    rfl
  have hread : (bankRead t).AtNext := h.after_bankRead
  refine ⟨_, (h.reaches_bankRead h.phase).trans (.of_step (hread.step_eq.trans hlast)),
    { hread.after_finish .ended with
      phase := rfl, trace := ?_, bank := hbank, nbanks := h.nbanks, ddir := rfl
      addr := addr_bankRead t, dout := ?_, bankReg := ?_, cells := h.cells, rx := h.rx
      params := h.params, status := h.status }⟩
  · rw [← hj]; exact h.trace_bankRead
  · rw [← hbank]; rfl
  · rw [← hbank, finish_env, env_bankRead]

/-- From the first bank all of them are read, up to the count (R153). -/
theorem AtBank.reaches_banksRead {n : BankNo} (h : AtBank n s 0 t) (hpos : 1 ≤ n.toNat)
    (hn : n.toNat ≤ 256) : ∃ u, Reaches t u ∧ BanksRead n s u := by
  obtain ⟨j, hj⟩ : ∃ j, j + 1 = n.toNat := ⟨n.toNat - 1, by omega⟩
  obtain ⟨u, hreach, hu⟩ := h.reaches (j := j) (by omega) hn
  obtain ⟨v, hlast, hv⟩ := hu.last hj
  exact ⟨v, hreach.trans hlast, hv⟩

/-! ### The response to DUMP -/

theorem length_rangeBytes (cells : Memory) (b : Byte) (d : Nat) (a : Word16) (n : Nat) :
    (rangeBytes cells b d a n).length = n := by
  simp [rangeBytes]

theorem windowBytes_zero (cells : Memory) (d : Nat) : windowBytes cells d 0 = [] := rfl

theorem windowBytes_succ (cells : Memory) (d n : Nat) :
    windowBytes cells d (n + 1) = windowBytes cells d n ++
      rangeBytes cells (trunc8 (bankIndex n)) (windowDraws d n) bankWinFirst 0x4000 := by
  simp only [windowBytes, List.range_succ, List.flatMap_append, List.flatMap_singleton]

theorem length_windowBytes (cells : Memory) (d n : Nat) :
    (windowBytes cells d n).length = n * 0x4000 := by
  induction n with
  | zero => rfl
  | succ n ih => rw [windowBytes_succ, List.length_append, ih, length_rangeBytes, Nat.succ_mul]

/-- The bytes sent by consecutive reads (R152, R182). -/
theorem responseBytes_readsOf (a : Word16) (bytes : List Byte) :
    responseBytes (readsOf a bytes) = bytes := by
  induction bytes generalizing a with
  | nil => rfl
  | cons v rest ih =>
    rw [readsOf_cons, responseBytes_append, ih]
    rfl

theorem responseBytes_rangeEvents (cells : Memory) (b : Byte) (d : Nat) (a : Word16) (n : Nat) :
    responseBytes (rangeEvents cells b d a n) = rangeBytes cells b d a n := by
  rw [rangeEvents_eq_readsOf, responseBytes_readsOf]

/-- Nothing is sent during a bank selection (R131). -/
theorem responseBytes_selectEvents (n : BankNo) : responseBytes (selectEvents n) = [] := rfl

theorem responseBytes_windowEvents (cells : Memory) (d n : Nat) :
    responseBytes (windowEvents cells d n) = windowBytes cells d n := by
  induction n with
  | zero => rfl
  | succ n ih =>
    rw [windowEvents_succ, responseBytes_append, ih, responseBytes_append, responseBytes_selectEvents,
      responseBytes_rangeEvents, List.nil_append, windowBytes_succ]

/-- Up to the ROM-size code only the base window has been sent (R154). -/
theorem responseBytes_dumpHead (cells : Memory) (b : Byte) (d : Nat) :
    responseBytes (dumpHead cells b d) = rangeBytes cells b d baseFirst 0x4000 := by
  have hcode (a : Word16) (v : Byte) : responseBytes (readEvents a v) = [] := rfl
  have hstart : responseBytes [.accept 0x07#8, .status .blinking] = [] := rfl
  rw [dumpHead, responseBytes_append, responseBytes_append, responseBytes_rangeEvents, hcode, hstart,
    List.nil_append, List.append_nil]

/-- The `i`-th byte of a range (R156). -/
theorem getElem?_rangeBytes {cells : Memory} {b : Byte} {d : Nat} {a : Word16} {i n : Nat} (h : i < n) :
    (rangeBytes cells b d a n)[i]? =
      some (byteAt cells b (d + i) (a + BitVec.ofNat 16 i)) := by
  simp [rangeBytes, h]

/-- The `j`-th byte of the `k`-th bank window (R156). -/
theorem getElem?_windowBytes {cells : Memory} {d k j n : Nat} (hk : k < n) (hj : j < 0x4000) :
    (windowBytes cells d n)[k * 0x4000 + j]? =
      some (byteAt cells (trunc8 (bankIndex k)) (windowDraws d k + j)
        (bankWinFirst + BitVec.ofNat 16 j)) := by
  induction n with
  | zero => omega
  | succ n ih =>
    have hlen : (windowBytes cells d n).length = n * 0x4000 := length_windowBytes cells d n
    rw [windowBytes_succ]
    by_cases hlast : k = n
    · subst hlast
      rw [List.getElem?_append_right (by omega), hlen, Nat.add_sub_cancel_left,
        getElem?_rangeBytes hj]
    · rw [List.getElem?_append_left (by omega)]
      exact ih (by omega)

/-! ### Whole DUMP commands -/

/-- How many bank windows a DUMP reads: the count of its ROM-size code, and none where that is unsupported
(R153, R155). -/
def dumpBanks (s : State) : Nat :=
  ((bankCount (dumpCode s.env.cart.cells s.env.cart.bankReg s.env.draws)).map BitVec.toNat).getD 0

theorem dumpBanks_of_some {n : BankNo}
    (h : bankCount (dumpCode s.env.cart.cells s.env.cart.bankReg s.env.draws) = some n) :
    dumpBanks s = n.toNat := by
  simp [dumpBanks, h]

theorem dumpBanks_of_none
    (h : bankCount (dumpCode s.env.cart.cells s.env.cart.bankReg s.env.draws) = none) :
    dumpBanks s = 0 := by
  simp [dumpBanks, h]

/-- The events of the DUMP that `s` is about to take (R153 to R156, R191). -/
def dumpEvents (s : State) : List Event :=
  dumpHead s.env.cart.cells s.env.cart.bankReg s.env.draws ++
    windowEvents s.env.cart.cells s.env.draws (dumpBanks s) ++ [.status .off]

/-- The response to that DUMP (R156). -/
theorem responseBytes_dumpEvents (s : State) : responseBytes (dumpEvents s) =
    rangeBytes s.env.cart.cells s.env.cart.bankReg s.env.draws baseFirst 0x4000 ++
      windowBytes s.env.cart.cells s.env.draws (dumpBanks s) := by
  have hend : responseBytes [.status .off] = [] := rfl
  rw [dumpEvents, responseBytes_append, responseBytes_append, responseBytes_dumpHead,
    responseBytes_windowEvents, hend, List.append_nil]

/-- `t` is the block at rest after the DUMP that `s` was about to take. -/
structure DumpDone (s t : State) : Prop extends Finished s t where
  reaches : Reaches s t
  trace : t.trace = s.trace ++ dumpEvents s

theorem DumpDone.response (h : DumpDone s t) : responseBytes t.trace = responseBytes s.trace ++
    (rangeBytes s.env.cart.cells s.env.cart.bankReg s.env.draws baseFirst 0x4000 ++
      windowBytes s.env.cart.cells s.env.draws (dumpBanks s)) := by
  rw [h.trace, responseBytes_append, responseBytes_dumpEvents]

theorem DumpDone.length_response (h : DumpDone s t) : (responseBytes t.trace).length =
    (responseBytes s.trace).length + (0x4000 + dumpBanks s * 0x4000) := by
  simp only [h.response, List.length_append, length_rangeBytes, length_windowBytes]

/-- DUMP with a supported code ends after the window of its last bank (R153, R181). -/
theorem State.Ready.dump_supported {n : BankNo} (h : s.Ready 0x07#8)
    (hc : bankCount (dumpCode s.env.cart.cells s.env.cart.bankReg s.env.draws) = some n) :
    ∃ t, BanksRead n s t ∧ DumpDone s (endCommand t) := by
  obtain ⟨u, hu, hcode⟩ := h.reaches_lookup
  obtain ⟨t, hbanks, ht⟩ := (hu.atBank_zero hc).reaches_banksRead
    (BitVec.le_def.mp (one_le_bankCount hc)) (bankCount_le hc)
  have hrun := hcode.trans (hbanks.trans (ht.reaches_endCommand ht.phase))
  refine ⟨t, ht, ht.finished (hrun.legal h.legal) ht.rx ht.cells ht.params, hrun, ?_⟩
  rw [trace_endCommand ht.status, ht.trace, dumpEvents, dumpBanks_of_some hc]
  simp only [List.append_assoc]

/-- DUMP with an unsupported code ends after the sample of that code (R155, R221). -/
theorem State.Ready.dump_unsupported (h : s.Ready 0x07#8)
    (hc : bankCount (dumpCode s.env.cart.cells s.env.cart.bankReg s.env.draws) = none) :
    ∃ t, CodeRead s t ∧ DumpDone s (endCommand t) := by
  obtain ⟨u, hu, hcode⟩ := h.reaches_lookup
  obtain ⟨ht, hphase⟩ := hu.after_abort hc
  have hrun := hcode.trans (ht.reaches_endCommand hphase)
  refine ⟨_, ht, ht.finished (hrun.legal h.legal) (by rw [ht.env]) (by rw [ht.env]) ht.params, hrun, ?_⟩
  rw [trace_endCommand ht.status, ht.trace, dumpEvents, dumpBanks_of_none hc]
  simp only [windowEvents_zero, List.append_nil, List.append_assoc]

/-- Every DUMP comes to its end, whatever its ROM-size code (R196). -/
theorem State.Ready.dumpDone (h : s.Ready 0x07#8) : ∃ t, DumpDone s t := by
  cases hc : bankCount (dumpCode s.env.cart.cells s.env.cart.bankReg s.env.draws) with
  | some n =>
    obtain ⟨t, -, hdone⟩ := h.dump_supported hc
    exact ⟨_, hdone⟩
  | none =>
    obtain ⟨t, -, hdone⟩ := h.dump_unsupported hc
    exact ⟨_, hdone⟩

/-! ### The bus work of DUMP, counted -/

theorem countP_rangeEvents {p : Event → Bool} {r : Nat} (hr : ∀ a v, (sentEvents a v).countP p = r)
    (cells : Memory) (b : Byte) (d : Nat) (a : Word16) (n : Nat) :
    (rangeEvents cells b d a n).countP p = n * r := by
  induction n with
  | zero => simp [rangeEvents]
  | succ n ih => rw [rangeEvents_succ, List.countP_append, ih, hr, Nat.succ_mul]

theorem countP_windowEvents {p : Event → Bool} {r k : Nat}
    (hr : ∀ a v, (sentEvents a v).countP p = r) (hk : ∀ b, (selectEvents b).countP p = k)
    (cells : Memory) (d n : Nat) :
    (windowEvents cells d n).countP p = n * (k + 0x4000 * r) := by
  induction n with
  | zero => simp [windowEvents]
  | succ n ih =>
    rw [windowEvents_succ, List.countP_append, ih, List.countP_append, hk, countP_rangeEvents hr,
      Nat.succ_mul n]

/-- Where a read has `r` events of a kind and a bank selection `k`, and no other event of DUMP is of that kind,
its count goes by its reads and its banks (R157). -/
theorem countP_dumpEvents {p : Event → Bool} {r k : Nat} (hr : ∀ a v, (readEvents a v).countP p = r)
    (hk : ∀ b, (selectEvents b).countP p = k)
    (haccept : ∀ c, p (.accept c) = false) (hsend : ∀ v, p (.send v) = false)
    (hstatus : ∀ x, p (.status x) = false) (s : State) :
    (dumpEvents s).countP p = 0x4000 * r + r + dumpBanks s * (k + 0x4000 * r) := by
  have hsent (a : Word16) (v : Byte) : (sentEvents a v).countP p = r := by
    rw [sentEvents, List.countP_append, hr]
    simp [hsend]
  have hstart : [.accept 0x07#8, .status .blinking].countP p = 0 := by simp [haccept, hstatus]
  have hend : [.status .off].countP p = 0 := by simp [hstatus]
  simp only [dumpEvents, dumpHead, List.countP_append, countP_rangeEvents hsent,
    countP_windowEvents hsent hk, hr, hstart, hend, Nat.zero_add, Nat.add_zero]

/-! ### DUMP in the terms of its samples alone -/

theorem windowsOf_concat (w : List Byte) (ws : List (List Byte)) (j : Nat) :
    windowsOf j (ws ++ [w]) =
      windowsOf j ws ++ (selectEvents (bankIndex (j + ws.length)) ++ readsOf bankWinFirst w) := by
  induction ws generalizing j with
  | nil => simp [windowsOf]
  | cons x rest ih =>
    have hindex : j + 1 + rest.length = j + (rest.length + 1) := by omega
    simp only [List.cons_append, windowsOf, ih, hindex, List.append_assoc, List.length_cons]

/-- The bytes of the first `n` bank windows of a DUMP, window by window (R156). -/
def windowList (cells : Memory) (d n : Nat) : List (List Byte) :=
  (List.range n).map fun j =>
    rangeBytes cells (trunc8 (bankIndex j)) (windowDraws d j) bankWinFirst 0x4000

theorem flatten_windowList (cells : Memory) (d n : Nat) :
    (windowList cells d n).flatten = windowBytes cells d n := List.flatMap_def.symm

theorem length_windowList (cells : Memory) (d n : Nat) : (windowList cells d n).length = n := by
  simp [windowList]

theorem length_of_mem_windowList {cells : Memory} {d n : Nat} {w : List Byte}
    (h : w ∈ windowList cells d n) : w.length = 0x4000 := by
  obtain ⟨j, -, rfl⟩ := List.mem_map.mp h
  exact length_rangeBytes _ _ _ _ _

/-- The bank windows that sample what the cartridge shows are those of its bytes. -/
theorem windowEvents_eq_windowsOf (cells : Memory) (d n : Nat) :
    windowEvents cells d n = windowsOf 0 (windowList cells d n) := by
  induction n with
  | zero => rfl
  | succ n ih =>
    have hlist : windowList cells d (n + 1) = windowList cells d n ++
        [rangeBytes cells (trunc8 (bankIndex n)) (windowDraws d n) bankWinFirst 0x4000] := by
      simp only [windowList, List.range_succ, List.map_append, List.map_cons, List.map_nil]
    rw [windowEvents_succ, hlist, windowsOf_concat, length_windowList, Nat.zero_add, ← ih,
      rangeEvents_eq_readsOf]

end Sys2Proof.Machine

/-! ### The obligations -/

namespace Sys2Proof.Proofs.RegionReaderFamily

open Sys2Proof.Machine

/-- Settles O28: outside a command the state is legal, and an Execute step makes one of the listed moves. -/
theorem phasesMoveAsListed : Obligations.PhasesMoveAsListed := by
  intro s t h hrst hs
  refine ⟨fun hi => ((h.after_step hs).idleOk hi).1, fun hd => ?_⟩
  cases h.iteratorMove_step hrst hd hs with
  | stays hphase hbank hnbanks =>
    simp only [advanceInputs_phase, advanceInputs_bank, advanceInputs_nbanks] at hphase hbank hnbanks
    rw [hphase, hbank, hnbanks]
    refine ⟨phaseStep_self _, ?_⟩
    cases s.phase <;> simp
  | regionEnds hfrom hto hend =>
    rcases hfrom with hfrom | hfrom <;> rw [advanceInputs_phase] at hfrom <;>
      simp [hfrom, hto, hend, phaseStep]
  | commandEnds hfrom hto =>
    rcases hfrom with hfrom | hfrom <;> rw [advanceInputs_phase] at hfrom <;>
      simp [hfrom, hto, phaseStep]
  | baseEnds | codeSupported | codeUnsupported | bankSelected | nextBank | lastBankEnds =>
    simp_all [phaseStep]

/-- Settles O29: the code is kept, and its bank count decides between the two outcomes. -/
theorem romSizeDecidesBanks : Obligations.RomSizeDecidesBanks := by
  intro s hrst hd hv hm hp
  have hbyte : sampledByte (advanceInputs s) = s.env.busByte s.addr := sampledByte_advanceInputs s
  have hstep : step s =
      .next (resolveBanks (s.env.busByte s.addr) (sampleBus (advanceInputs s))) := by
    have hsample := sampleEdge_romSize (s := advanceInputs s) hp
    rw [step_run hrst hd hv, ← hbyte, ← hsample]
    simp only [runEdge, advanceInputs_micro, hm]
  have htrace : (sampleBus (advanceInputs s)).trace =
      s.trace ++ [.sample s.addr (s.env.busByte s.addr)] := by rw [← hbyte]; rfl
  refine ⟨_, hstep, ?_⟩
  cases hc : bankCount (s.env.busByte s.addr) with
  | some n =>
    rw [resolveBanks_of_some hc]
    refine ⟨rfl, hv, rfl, htrace, fun m hm => ?_, nofun⟩
    cases hm
    exact ⟨rfl, rfl, rfl, rfl⟩
  | none =>
    rw [resolveBanks_of_none hc]
    exact ⟨rfl, hv, rfl, htrace, nofun, fun _ => ⟨rfl, rfl, rfl, rfl⟩⟩

/-- Settles O49: the banks are read one by one, up to the count of the code. -/
theorem dumpSupportedCommand : Obligations.DumpSupportedCommand := by
  intro s n h hc
  obtain ⟨t, ht, hdone⟩ := h.dump_supported hc
  have htrace := hdone.trace
  have hresponse := hdone.response
  have hlength := hdone.length_response
  simp only [dumpEvents, dumpBanks_of_some hc, ← List.append_assoc] at htrace hresponse hlength
  simp only [← List.append_assoc]
  exact ⟨_, hdone.reaches, hdone.toFinished, htrace, hresponse, hlength, ht.ddir, ht.addr, ht.dout,
    ht.nbanks, ht.bank, ht.bankReg⟩

/-- Settles O50: the lookup of the code leaves the bus and the cartridge as its sample left them. -/
theorem dumpUnsupportedCommand : Obligations.DumpUnsupportedCommand := by
  intro s h hc
  obtain ⟨t, ht, hdone⟩ := h.dump_unsupported hc
  have htrace := hdone.trace
  have hresponse := hdone.response
  have hlength := hdone.length_response
  simp only [dumpEvents, dumpBanks_of_none hc, windowEvents_zero, windowBytes_zero, List.append_nil,
    ← List.append_assoc, Nat.zero_mul, Nat.add_zero] at htrace hresponse hlength
  have henv : (endCommand t).env =
    { s.env with rx := s.env.rx.tail, draws := s.env.draws + 0x4001 } := ht.env
  exact ⟨_, hdone.reaches, hdone.toFinished, htrace, hresponse, hlength, ht.ddir, ht.addr, ht.dout,
    by rw [henv], by rw [henv]⟩

/-- Settles O51: the response is the base window and the bank windows, each read off by its index. -/
theorem dumpResponse : Obligations.DumpResponse := by
  intro s h
  obtain ⟨t, ht⟩ := h.dumpDone
  refine ⟨t, responseBytes (dumpEvents s), ht.reaches, ht.idle,
    by rw [ht.trace, responseBytes_append], ?_⟩
  rw [responseBytes_dumpEvents]
  have hbase : (rangeBytes s.env.cart.cells s.env.cart.bankReg s.env.draws baseFirst 0x4000).length =
    0x4000 := length_rangeBytes _ _ _ _ _
  refine ⟨fun i hi => ?_, fun n hn => ⟨?_, fun b j hb hbn hj => ?_⟩, fun hn => ?_⟩
  · rw [List.getElem?_append_left (by omega), getElem?_rangeBytes hi, baseFirst, BitVec.zero_add]
  · rw [List.length_append, hbase, length_windowBytes, dumpBanks_of_some hn]
  · rw [List.getElem?_append_right (by omega), hbase, dumpBanks_of_some hn,
      show 0x4000 + (b - 1) * 0x4000 + j - 0x4000 = (b - 1) * 0x4000 + j by omega,
      getElem?_windowBytes (by omega) hj, bankIndex, Nat.sub_add_cancel hb, windowDraws, bankWinFirst]
  · rw [List.length_append, hbase, length_windowBytes, dumpBanks_of_none hn]

/-- Settles O52: the four kinds of event, counted per read and per bank selection. -/
theorem dumpBusWorkCounts : Obligations.DumpBusWorkCounts := by
  intro s h
  obtain ⟨t, ht⟩ := h.dumpDone
  have hsample := countP_dumpEvents (p := Event.isSample) (r := 1) (k := 0)
    (fun _ _ => rfl) (fun _ => rfl) (fun _ => rfl) (fun _ => rfl) (fun _ => rfl) s
  have hdrive := countP_dumpEvents (p := Event.isDrive) (r := 0) (k := 1)
    (fun _ _ => rfl) (fun _ => rfl) (fun _ => rfl) (fun _ => rfl) (fun _ => rfl) s
  have hmode := countP_dumpEvents (p := Event.isMode) (r := 0) (k := 2)
    (fun _ _ => rfl) (fun _ => rfl) (fun _ => rfl) (fun _ => rfl) (fun _ => rfl) s
  have hsettle := countP_dumpEvents (p := Event.isSettle) (r := 1) (k := 2)
    (fun _ _ => rfl) (fun _ => rfl) (fun _ => rfl) (fun _ => rfl) (fun _ => rfl) s
  refine ⟨t, dumpEvents s, ht.reaches, ht.idle, ht.trace, fun n hn => ?_, fun hn => ?_⟩
  · rw [hsample, hdrive, hmode, hsettle, dumpBanks_of_some hn]
    omega
  · rw [hsample, hdrive, hmode, hsettle, dumpBanks_of_none hn]
    omega

/-- Settles O55: the samples are those the cartridge shows, taken window by window. -/
theorem dumpTrace : Obligations.DumpTrace := by
  intro s h
  obtain ⟨t, ht⟩ := h.dumpDone
  refine ⟨t, rangeBytes s.env.cart.cells s.env.cart.bankReg s.env.draws baseFirst 0x4000,
    dumpCode s.env.cart.cells s.env.cart.bankReg s.env.draws,
    windowList s.env.cart.cells s.env.draws (dumpBanks s), ht.reaches, ht.idle, ht.statusOff,
    ht.modeRead, length_rangeBytes _ _ _ _ _, fun w hw => length_of_mem_windowList hw, ?_, ?_,
    fun hn => ?_, fun n hn => ⟨?_, ?_⟩⟩
  · rw [ht.trace, dumpEvents, dumpHead, windowEvents_eq_windowsOf, rangeEvents_eq_readsOf]
    simp only [List.append_assoc, baseFirst, romSizeAddr]
  · rw [ht.response, flatten_windowList, List.append_assoc]
  · rw [dumpBanks_of_none hn]; rfl
  · rw [length_windowList, dumpBanks_of_some hn]
  · rw [List.length_append, length_rangeBytes, flatten_windowList, length_windowBytes,
      dumpBanks_of_some hn]

end Sys2Proof.Proofs.RegionReaderFamily
end

section
/-! PROOFS. The family of spec/44_command_dispatcher.md: the edge that takes a command byte, the Execute steps
and the transport, the header commands and PROBE as runs, repeated commands, and that every command ends. -/

namespace Sys2Proof.Machine

variable {s t : State}

/-! ### Taking a command byte -/

/-- Bytes that hold an instruction begin with its one byte (R70). -/
theorem decode_eq_ok {bytes rest : List Byte} {i : Instr} (h : decode bytes = .ok (i, rest)) :
    ∃ c, bytes = c :: rest ∧ i = decodeByte c := by
  cases bytes with
  | nil => cases h
  | cons c tail => cases h; exact ⟨c, rfl, rfl⟩

/-- A recognised command is written to CMD and starts executing (R180). -/
theorem exec_begins {i : Instr} (hw : i.wellFormed = true) (hc : isCommandByte (encodeByte i) = true)
    (s : State) : ∃ t, exec i s = .next t ∧ t.cmd = encodeByte i ∧ t.dstate = .executing := by
  cases i with
  | ignored b =>
    have hb : isCommandByte b = false := by simpa [Instr.wellFormed] using hw
    exact absurd (hb.symm.trans hc) (by decide)
  | probe | rdtype | rdromsz | rdgbc | rdtitle | rdlogo | dump | rdcksum => exact ⟨_, rfl, rfl, rfl⟩

/-- No instruction's accepting edge reaches the environment (R37). -/
theorem exec_env {i : Instr} (h : exec i s = .next t) : t.env = s.env := by
  rcases exec_next h with ⟨-, rfl⟩ | ⟨-, rfl⟩ | ⟨-, rfl⟩ | ⟨-, rfl⟩ | ⟨-, rfl⟩ <;> rfl

/-! ### A response byte that waits -/

/-- Edges with rsp_ready = 0 hold a waiting byte, however many they are (R182, R232). -/
theorem runSteps_waitRsp {k : Nat} (hd : s.dstate = .executing) (hv : s.rspValid = true)
    (hwait : ∀ j < k, (s.env.advanceBy j).pins.rst = false ∧
      (s.env.advanceBy j).pins.rspReady = false) :
    runSteps k s = .next { s with env := s.env.advanceBy k, clocks := s.clocks + k } := by
  induction k with
  | zero => rfl
  | succ k ih =>
    obtain ⟨hr, hp⟩ := hwait k (Nat.lt_succ_self k)
    have hrun := ih fun j hj => hwait j (Nat.lt_succ_of_lt hj)
    refine (runSteps_concat hrun (step_waitRsp hr hd hv hp)).trans ?_
    simp [wait, advanceInputs, advance_advanceBy, Nat.add_assoc]

/-! ### The Execute steps and the transport -/

/-- `t` comes after `s` in the same command: the input levels, their schedule and the bytes the transport
holds are kept, and no command byte is accepted. -/
structure Continues (s t : State) : Prop where
  dstate : t.dstate = s.dstate
  pins : t.env.pins = s.env.pins
  upcoming : t.env.upcoming = s.env.upcoming
  rx : t.env.rx = s.env.rx
  events : ∃ es, t.trace = s.trace ++ es ∧ ∀ c, Event.accept c ∉ es

/-- A step without an event that keeps DSTATE and the environment continues the command. -/
theorem Continues.of_silent (hd : t.dstate = s.dstate) (he : t.env = s.env) (ht : t.trace = s.trace) :
    Continues s t :=
  ⟨hd, by rw [he], by rw [he], by rw [he], [], by simp [ht], by simp⟩

theorem continues_settleEdge (m : Micro) (s : State) : Continues s (settleEdge m s) := by
  rcases settleEdge_cases m s with ⟨-, he⟩ | ⟨-, he⟩ <;> rw [he]
  · exact ⟨rfl, rfl, rfl, rfl, [.settle], rfl, by simp⟩
  · exact .of_silent rfl rfl rfl

theorem continues_sampleEdge (h : sampleEdge s = .next t) : Continues s t := by
  rcases sampleEdge_next h with ⟨-, rfl⟩ | ⟨-, rfl⟩ | ⟨-, rfl⟩
  · exact ⟨rfl, rfl, rfl, rfl, _, rfl, by simp⟩
  · exact ⟨rfl, rfl, rfl, rfl, _, rfl, by simp⟩
  · rcases resolveBanks_cases (sampledByte s) (sampleBus s) with ⟨n, -, he⟩ | ⟨-, he⟩ <;> rw [he] <;>
      exact ⟨rfl, rfl, rfl, rfl, _, rfl, by simp⟩

/-- The command is at its end: no primitive is in progress, and the iterator is Done or the command is PROBE
(R180, R185). -/
def AtEnd (s : State) : Prop :=
  s.micro = .none ∧ (s.phase = .done ∨ s.phase = .none ∧ s.cmd = 0x01#8)

/-- `Next()` continues the command or ends it (R150, R181). -/
theorem nextEdge_continues_or_ends (hm : s.micro = .none) (h : nextEdge s = .next t) :
    Continues s t ∨ (AtEnd s ∧ t = endCommand s) := by
  rcases nextEdge_next h with ⟨-, -, rfl⟩ | ⟨-, -, rfl⟩ | ⟨hp, rfl⟩ | ⟨-, -, rfl⟩ | ⟨-, -, -, rfl⟩ |
    ⟨-, -, rfl⟩
  · exact .inl ⟨rfl, rfl, rfl, rfl, [.dir .input], rfl, by simp⟩
  · exact .inl ⟨rfl, rfl, rfl, rfl, [.dir .output], rfl, by simp⟩
  · exact .inr ⟨⟨hm, hp.symm⟩, rfl⟩
  all_goals exact .inl (.of_silent rfl rfl rfl)

/-- An Execute step with no byte waiting continues the command or ends it (R33, R181). -/
theorem runEdge_continues_or_ends (h : runEdge s = .next t) :
    Continues s t ∨ (AtEnd s ∧ t = endCommand s) := by
  rcases runEdge_next h with ⟨hm, hn⟩ | ⟨-, rfl⟩ | ⟨-, rfl⟩ | ⟨-, hn⟩ | ⟨-, rfl⟩ | ⟨-, rfl⟩ |
    ⟨-, rfl⟩ | ⟨-, rfl⟩ | ⟨-, rfl⟩ | ⟨-, rfl⟩
  · exact nextEdge_continues_or_ends hm hn
  · exact .inl ⟨rfl, rfl, rfl, rfl, [.addr _], rfl, by simp⟩
  · exact .inl (continues_settleEdge _ s)
  · exact .inl (continues_sampleEdge hn)
  · exact .inl ⟨rfl, rfl, rfl, rfl, [.addr _], rfl, by simp⟩
  · exact .inl (continues_settleEdge _ s)
  · exact .inl ⟨rfl, rfl, rfl, rfl, [.drive _], rfl, by simp⟩
  · exact .inl ⟨rfl, rfl, rfl, rfl, [.mode .write], rfl, by simp⟩
  · exact .inl (continues_settleEdge _ s)
  · exact .inl ⟨rfl, rfl, rfl, rfl, [.mode .read], rfl, by simp⟩

/-- Without reset every Execute step continues the command or, with no byte waiting, ends it (R184, R196). -/
theorem step_continues_or_ends (hrst : s.env.pins.rst = false) (hd : s.dstate = .executing)
    (hs : step s = .next t) :
    Continues (advanceInputs s) t ∨
      (s.rspValid = false ∧ AtEnd s ∧ t = endCommand (advanceInputs s)) := by
  rcases step_next hs with ⟨hr, -⟩ | ⟨-, hi, -⟩ | ⟨-, -, ⟨-, -, rfl⟩ | ⟨-, -, rfl⟩ | ⟨hv, hr⟩⟩
  · simp [hrst] at hr
  · simp [hd] at hi
  · exact .inl ⟨rfl, rfl, rfl, rfl, [.send _], rfl, by simp⟩
  · exact .inl (.of_silent rfl rfl rfl)
  · exact (runEdge_continues_or_ends hr).imp_right fun he => ⟨hv, he⟩

/-- The end of the status bracket accepts nothing (R181, R183). -/
theorem accept_notMem_bracketEnd (x : Status) (c : Byte) : Event.accept c ∉ bracketEnd x := by
  cases x <;> simp [bracketEnd]

/-- Outside a command the bus of a legal state is in Read mode (R194). -/
theorem State.Legal.mode_read_of_idle (h : s.Legal) (hd : s.dstate = .idle) : s.mode = .read := by
  obtain ⟨-, hm, -, -⟩ := h.idleOk hd
  exact (h.busAtRest hm).mode

/-! ### Commands in a row -/

/-- The block at rest after a command takes the byte that follows (R184). -/
theorem Finished.ready {b c : Byte} {rest : List Byte} (h : Finished s t)
    (hrx : s.env.rx = b :: c :: rest) : t.Ready c :=
  ⟨h.legal, h.idle, h.attended, by rw [h.rx, hrx]; rfl⟩

/-- Outside a command no phase of the iterator is in progress (R158). -/
theorem Finished.phase_none (h : Finished s t) : t.phase = .none := (h.legal.idleOk h.idle).1

/-- Outside a command STATUS is Off (R183). -/
theorem State.Ready.status_off {c : Byte} (h : s.Ready c) : s.status = .off := by
  obtain ⟨-, -, -, hoff⟩ := h.legal.idleOk h.idle
  exact hoff

/-- The step that accepts a command with a region leaves the block at `Next()` (R180, R249). -/
theorem State.Ready.step_accept {c : Byte} (h : s.Ready c) (hi : decodeByte c ≠ .probe)
    (he : exec (decodeByte c) (takeByte c s) = .next t) (hd : t.dstate = .executing) :
    step s = .next t ∧ t.AtNext := by
  obtain ⟨-, hmicro, hvalid, -⟩ := h.legal.idleOk h.idle
  obtain ⟨hparams, hmode, -, -, -, -, -, -, -, -, hmicro', henv, hrsp, -⟩ :=
    Proofs.StateFamily.instructionStartFrame _ _ _ he
  refine ⟨(step_attended_take h.attended h.idle h.next).trans he, ?_⟩
  exact
    { attended := by rw [State.attended, henv]; exact h.attended
      executing := hd
      noByte := (hrsp hi).2.trans hvalid
      noPrimitive := hmicro'.trans hmicro
      modeRead := hmode.trans (h.legal.busAtRest hmicro).mode
      settleCycles := by rw [hparams]; exact h.legal.paramsOk.1 }

/-- In Done the next edge is `End()`, whatever the outcome (R180, R181, R221). -/
theorem State.AtNext.step_endCommand (h : s.AtNext) (hp : s.phase = .done) :
    step s = .next (endCommand s) := by
  rw [h.step_eq]
  cases he : s.iterEnd <;> simp only [nextEdge, hp, he, abortCommand]

/-- `End()` outside the status bracket emits nothing (R181). -/
theorem trace_endCommand_off (h : s.status = .off) : (endCommand s).trace = s.trace := by
  simp [endCommand, h, bracketEnd]

/-! ### PROBE -/

/-- `s` after the edge that accepts 0x01 and the Send of its byte (R185). -/
def probeSent (s : State) : State :=
  byteTaken (offerByte probeValue (beginCommand 0x01#8 (takeByte 0x01#8 s)))

theorem State.Ready.atNext_probeSent (h : s.Ready 0x01#8) : (probeSent s).AtNext := by
  obtain ⟨-, hmicro, -, -⟩ := h.legal.idleOk h.idle
  exact
    { attended := by simpa [State.attended, probeSent] using h.attended
      executing := by simp [probeSent]
      noByte := by simp [probeSent]
      noPrimitive := by simpa [probeSent] using hmicro
      modeRead := by simpa [probeSent] using h.legal.mode_read_of_idle h.idle
      settleCycles := by simpa [probeSent] using h.legal.paramsOk.1 }

/-- With no region to read, PROBE ends once its byte is taken (R181, R185). -/
theorem State.Ready.step_probeSent (h : s.Ready 0x01#8) :
    step (probeSent s) = .next (endCommand (probeSent s)) := by
  obtain ⟨hphase, -, -, -⟩ := h.legal.idleOk h.idle
  have hp : (probeSent s).phase = .none := by simpa [probeSent] using hphase
  have hc : (probeSent s).cmd = 0x01#8 := by simp [probeSent]
  rw [h.atNext_probeSent.step_eq]
  simp only [nextEdge, hp, if_pos hc]

/-- PROBE is its accepting edge, the Send, and `End()` (R181, R185). -/
theorem State.Ready.runSteps_probe (h : s.Ready 0x01#8) :
    runSteps 3 s = .next (endCommand (probeSent s)) := by
  have haccept : step s = .next (offerByte probeValue (beginCommand 0x01#8 (takeByte 0x01#8 s))) :=
    step_attended_take h.attended h.idle h.next
  have hsend : step (offerByte probeValue (beginCommand 0x01#8 (takeByte 0x01#8 s))) =
      .next (probeSent s) := step_attended_send h.attended rfl rfl
  rw [runSteps_succ _ haccept, runSteps_succ _ hsend, runSteps_succ _ h.step_probeSent, runSteps_zero]

theorem State.Ready.finished_probe (h : s.Ready 0x01#8) : Finished s (endCommand (probeSent s)) :=
  h.atNext_probeSent.finished (Reaches.legal ⟨_, h.runSteps_probe⟩ h.legal) (by simp [probeSent])
    (by simp [probeSent]) (by simp [probeSent])

/-- PROBE has no status bracket, so its events are its Accept and its Send (R181, R185). -/
theorem State.Ready.trace_probe (h : s.Ready 0x01#8) :
    (endCommand (probeSent s)).trace = s.trace ++ [Event.accept 0x01#8, Event.send 0xA0#8] := by
  have hoff : (probeSent s).status = .off := by simpa [probeSent] using h.status_off
  rw [trace_endCommand_off hoff]
  simp [probeSent, probeValue]

/-! ### The commands that read one byte -/

/-- The commands whose region is Single (R186 to R188). -/
def ReadsByte (c : Byte) : Prop := c = 0x02#8 ∨ c = 0x03#8 ∨ c = 0x04#8

/-- `s` after the edge that accepts a command with a Single region (R186 to R188). -/
def singleStarted (c : Byte) (s : State) : State :=
  initSingle (singleAddr c) (beginCommand c (takeByte c s))

/-- `s`, in the phase Single, after its read and the Send of what it sampled (R151, R182). -/
def singleSent (s : State) : State :=
  { s with
    ddir := .input
    addr := readOperand s
    settleCnt := 0
    rsp := s.env.busByte (readOperand s)
    rspValid := false
    phase := .done
    iterEnd := .ended
    micro := .none
    env := { s.env with draws := s.env.draws + 1 }
    trace := s.trace ++ sentEvents (readOperand s) (s.env.busByte (readOperand s))
    clocks := s.clocks + s.params.settleCycles + 4 }

theorem State.AtNext.after_singleSent (h : s.AtNext) : (singleSent s).AtNext :=
  { h with noByte := rfl, noPrimitive := rfl }

/-- The phase Single returns the byte it samples and is Done (R151). -/
theorem sampleEdge_single (h : s.phase = .single) :
    sampleEdge s = .next (offerByte (sampledByte s) (finish .ended (sampleBus s))) := by
  simp only [sampleEdge, h]

/-- The region Single is one MemRead and one Send (R151). -/
theorem State.AtNext.runSteps_singleSent (h : s.AtNext) (hp : s.phase = .single) :
    runSteps (s.params.settleCycles + 4) s = .next (singleSent s) := by
  have hsettled := h.memRead_settles (by simp only [atRead, hp])
  have hsample := step_of_runEdge h.attended h.executing h.noByte
    (s := settledAt .input (readOperand s) .readSample s) (sampleEdge_single hp)
  have hsend := step_attended_send h.attended h.executing rfl
    (s := offerByte (s.env.busByte (readOperand s))
      (finish .ended (sampleBus (settledAt .input (readOperand s) .readSample s))))
  refine (runSteps_concat (runSteps_concat hsettled hsample) hsend).trans ?_
  simp [byteTaken, offerByte, finish, sampleBus, sampledByte, settledAt, emit, singleSent, sentEvents,
    readEvents, Nat.add_assoc]

/-- The commands 0x02 to 0x04 begin the region Single at their own address (R186 to R188). -/
theorem State.Ready.step_singleStarted {c : Byte} (h : s.Ready c) (hc : ReadsByte c) :
    step s = .next (singleStarted c s) ∧ (singleStarted c s).AtNext := by
  rcases hc with rfl | rfl | rfl <;> exact h.step_accept (by decide) rfl rfl

theorem readOperand_singleStarted (c : Byte) (s : State) :
    readOperand (singleStarted c s) = singleAddr c := trunc16_zext17 _

/-- What the cartridge shows does not depend on the bytes the transport holds. -/
theorem busByte_singleStarted (c : Byte) (s : State) (a : Word16) :
    (singleStarted c s).env.busByte a = s.env.busByte a := rfl

/-- `s` after the whole command 0x02, 0x03 or 0x04 (R181, R186 to R188). -/
def singleDone (c : Byte) (s : State) : State := endCommand (singleSent (singleStarted c s))

theorem State.Ready.runSteps_singleDone {c : Byte} (h : s.Ready c)
    (hc : ReadsByte c) :
    runSteps (s.params.settleCycles + 6) s = .next (singleDone c s) := by
  obtain ⟨hstart, hnext⟩ := h.step_singleStarted hc
  have hread : runSteps (s.params.settleCycles + 4) (singleStarted c s) =
      .next (singleSent (singleStarted c s)) := hnext.runSteps_singleSent rfl
  rw [runSteps_succ _ hstart]
  exact runSteps_concat hread (hnext.after_singleSent.step_endCommand rfl)

theorem State.Ready.finished_singleDone {c : Byte} (h : s.Ready c)
    (hc : ReadsByte c) : Finished s (singleDone c s) :=
  (h.step_singleStarted hc).2.after_singleSent.finished
    (Reaches.legal ⟨_, h.runSteps_singleDone hc⟩ h.legal) rfl rfl rfl

/-- Such a command has no status bracket: its events are its Accept, its read and the Send (R181). -/
theorem State.Ready.trace_singleDone {c : Byte} (h : s.Ready c) : (singleDone c s).trace =
    s.trace ++ Event.accept c :: sentEvents (singleAddr c) (s.env.busByte (singleAddr c)) := by
  have hoff : (singleSent (singleStarted c s)).status = .off := h.status_off
  have hsent : (singleSent (singleStarted c s)).trace = s.trace ++ [Event.accept c] ++
    sentEvents (readOperand (singleStarted c s))
      ((singleStarted c s).env.busByte (readOperand (singleStarted c s))) := rfl
  rw [singleDone, trace_endCommand_off hoff, hsent, readOperand_singleStarted, busByte_singleStarted,
    List.append_assoc, List.singleton_append]

/-- The registers such a command leaves (R103, R182). -/
theorem registers_singleDone (c : Byte) (s : State) :
    (singleDone c s).ddir = .input ∧ (singleDone c s).addr = singleAddr c ∧
      (singleDone c s).rsp = s.env.busByte (singleAddr c) ∧ (singleDone c s).dout = s.dout ∧
      (singleDone c s).cmd = c := by
  have haddr : (singleDone c s).addr = readOperand (singleStarted c s) := rfl
  have hrsp : (singleDone c s).rsp =
    (singleStarted c s).env.busByte (readOperand (singleStarted c s)) := rfl
  rw [haddr, hrsp, readOperand_singleStarted, busByte_singleStarted]
  exact ⟨rfl, rfl, rfl, rfl, rfl⟩

/-! ### The commands that read a field -/

/-- The commands whose region is Range (R189, R190, R192). -/
def ReadsField (c : Byte) : Prop := c = 0x05#8 ∨ c = 0x06#8 ∨ c = 0x08#8

/-- `s` after the edge that accepts a command with a Range region (R189, R190, R192). -/
def rangeStarted (c : Byte) (s : State) : State :=
  initRange (rangeFirst c) (rangeLast c) (statusOn (beginCommand c (takeByte c s)))

/-- The commands 0x05, 0x06 and 0x08 begin the region Range over their own field (R189, R190, R192). -/
theorem State.Ready.step_rangeStarted {c : Byte} (h : s.Ready c) (hc : ReadsField c) :
    step s = .next (rangeStarted c s) ∧ (rangeStarted c s).AtNext := by
  rcases hc with rfl | rfl | rfl <;> exact h.step_accept (by decide) rfl rfl

/-- CUR of a region begins at the field's first address, without loss in its width (R31, R152). -/
theorem cur_toNat_rangeStarted (c : Byte) (s : State) :
    (rangeStarted c s).cur.toNat = (rangeFirst c).toNat :=
  BitVec.toNat_setWidth_of_le (by decide)

/-- `s` after a whole command that reads a field of `n + 1` bytes (R181, R189, R190, R192). -/
def rangeDone (c : Byte) (n : Nat) (s : State) : State :=
  endCommand (finish .ended (rangeRead n (rangeStarted c s)))

/-- The last address of the field of such a command is its `n`-th after the first (R53). -/
def FieldEnds (c : Byte) (n : Nat) : Prop := (rangeFirst c).toNat + n = (rangeLast c).toNat

theorem State.Ready.runSteps_rangeDone {c : Byte} {n : Nat} (h : s.Ready c)
    (hc : ReadsField c) (hn : FieldEnds c n) :
    runSteps ((n + 1) * (s.params.settleCycles + 4) + 3) s = .next (rangeDone c n s) := by
  obtain ⟨hstart, hnext⟩ := h.step_rangeStarted hc
  have hall : (rangeStarted c s).cur.toNat + n = (rangeStarted c s).endAddr.toNat := by
    rw [cur_toNat_rangeStarted]; exact hn
  have hread : runSteps ((n + 1) * (s.params.settleCycles + 4)) (rangeStarted c s) =
      .next (rangeRead n (rangeStarted c s)) := hnext.runSteps_rangeRead (.inl rfl) hall.le
  have hlast : step (rangeRead n (rangeStarted c s)) =
      .next (finish .ended (rangeRead n (rangeStarted c s))) := by
    have hphase : (rangeRead n (rangeStarted c s)).phase = .range := rfl
    rw [(hnext.after_rangeRead n).step_eq]
    simp only [nextEdge, hphase, rangeLeft_rangeRead_last hall]
    rfl
  rw [runSteps_succ _ hstart]
  exact runSteps_concat (runSteps_concat hread hlast)
    (((hnext.after_rangeRead n).after_finish .ended).step_endCommand rfl)

theorem State.Ready.finished_rangeDone {c : Byte} {n : Nat} (h : s.Ready c)
    (hc : ReadsField c) (hn : FieldEnds c n) : Finished s (rangeDone c n s) :=
  (((h.step_rangeStarted hc).2.after_rangeRead n).after_finish .ended).finished
    (Reaches.legal ⟨_, h.runSteps_rangeDone hc hn⟩ h.legal) (by simp [rangeRead, rangeStarted, initRange])
    (by simp [rangeRead, rangeStarted, initRange]) (by simp [rangeRead, rangeStarted, initRange])

/-- The events of such a command: its reads and Sends inside the status bracket (R183). -/
theorem trace_rangeDone (c : Byte) (n : Nat) (s : State) : (rangeDone c n s).trace =
    s.trace ++ [Event.accept c, Event.status .blinking] ++
      rangeEvents s.env.cart.cells s.env.cart.bankReg s.env.draws (rangeFirst c) (n + 1) ++
      [Event.status .off] := by
  have hon : (finish .ended (rangeRead n (rangeStarted c s))).status = .blinking := by
    simp [rangeRead, rangeStarted, initRange]
  rw [rangeDone, trace_endCommand hon]
  simp [rangeRead, rangeStarted, initRange, statusOn]

/-! ### The response to a header command -/

/-- A range of one address. -/
theorem rangeBytes_one (e : Env) (a : Word16) :
    rangeBytes e.cart.cells e.cart.bankReg e.draws a 1 = [e.busByte a] := by
  simp [rangeBytes, busByte_eq_byteAt]

/-- `t` is the block at rest after a header command that `s` was about to take, which read `n` bytes from the
address `first` (R186 to R190, R192). -/
structure HeaderDone (first : Word16) (n : Nat) (s t : State) : Prop extends Finished s t where
  reaches : Reaches s t
  cart : t.env.cart = s.env.cart
  response : responseBytes t.trace = responseBytes s.trace ++
    rangeBytes s.env.cart.cells s.env.cart.bankReg s.env.draws first n

/-- The response of the commands 0x02 to 0x04 is their sample (R186 to R188). -/
theorem State.Ready.response_singleDone {c : Byte} (h : s.Ready c) :
    responseBytes (singleDone c s).trace =
      responseBytes s.trace ++ [s.env.busByte (singleAddr c)] := by
  rw [h.trace_singleDone, responseBytes_append]
  rfl

/-- The response of the commands 0x05, 0x06 and 0x08 is the bytes of their field (R189, R190, R192). -/
theorem response_rangeDone (c : Byte) (n : Nat) (s : State) :
    responseBytes (rangeDone c n s).trace = responseBytes s.trace ++
      rangeBytes s.env.cart.cells s.env.cart.bankReg s.env.draws (rangeFirst c) (n + 1) := by
  have hstart : responseBytes [.accept c, .status .blinking] = [] := rfl
  have hend : responseBytes [.status .off] = [] := rfl
  rw [trace_rangeDone, responseBytes_append, responseBytes_append, responseBytes_append, hstart, hend,
    responseBytes_rangeEvents, List.append_nil, List.append_nil]

theorem env_singleDone (c : Byte) (s : State) : (singleDone c s).env =
    { s.env with rx := s.env.rx.tail, draws := s.env.draws + 1 } := by
  simp [singleDone, singleSent, singleStarted, initSingle]

theorem env_rangeDone (c : Byte) (n : Nat) (s : State) : (rangeDone c n s).env =
    { s.env with rx := s.env.rx.tail, draws := s.env.draws + (n + 1) } := by
  simp [rangeDone, rangeRead, rangeStarted, initRange]

theorem State.Ready.headerDone_single {c : Byte} (h : s.Ready c)
    (hc : ReadsByte c) : HeaderDone (singleAddr c) 1 s (singleDone c s) :=
  { h.finished_singleDone hc with
    reaches := ⟨_, h.runSteps_singleDone hc⟩
    cart := by rw [env_singleDone]
    response := by rw [h.response_singleDone, rangeBytes_one] }

theorem State.Ready.headerDone_range {c : Byte} {n : Nat} (h : s.Ready c)
    (hc : ReadsField c) (hn : FieldEnds c n) :
    HeaderDone (rangeFirst c) (n + 1) s (rangeDone c n s) :=
  { h.finished_rangeDone hc hn with
    reaches := ⟨_, h.runSteps_rangeDone hc hn⟩
    cart := by rw [env_rangeDone]
    response := response_rangeDone c n s }

/-- Each header command, with the first address and the length of what it reads (R53, R186 to R190, R192). -/
def headerFields : List (Byte × Word16 × Nat) :=
  [(0x02#8, cartTypeAddr, 1), (0x03#8, romSizeAddr, 1), (0x04#8, gbcFlagAddr, 1),
    (0x05#8, titleFirst, 16), (0x06#8, logoFirst, 48), (0x08#8, checksumFirst, 2)]

/-- Every header command comes to its end and answers what it reads (R196). -/
theorem State.Ready.headerDone {c : Byte} {first : Word16} {n : Nat} (h : s.Ready c)
    (hrow : (c, first, n) ∈ headerFields) : ∃ t, HeaderDone first n s t := by
  simp only [headerFields, List.mem_cons, Prod.mk.injEq, List.not_mem_nil, or_false] at hrow
  rcases hrow with ⟨rfl, rfl, rfl⟩ | ⟨rfl, rfl, rfl⟩ | ⟨rfl, rfl, rfl⟩ | ⟨rfl, rfl, rfl⟩ |
    ⟨rfl, rfl, rfl⟩ | ⟨rfl, rfl, rfl⟩
  · exact ⟨_, h.headerDone_single (.inl rfl)⟩
  · exact ⟨_, h.headerDone_single (.inr (.inl rfl))⟩
  · exact ⟨_, h.headerDone_single (.inr (.inr rfl))⟩
  · exact ⟨_, h.headerDone_range (n := 15) (.inl rfl) rfl⟩
  · exact ⟨_, h.headerDone_range (n := 47) (.inr (.inl rfl)) rfl⟩
  · exact ⟨_, h.headerDone_range (n := 1) (.inr (.inr rfl)) rfl⟩

/-! ### Known bytes -/

/-- A listed location is sampled as its byte, whatever was drawn before (R26). -/
theorem byteAt_known {cells : Memory} {b v : Byte} {a : Word16}
    (h : Memory.read cells (location b a) = some v) (n : Nat) : byteAt cells b n a = v := by
  simp [byteAt, h]

/-- A range whose bytes are known reads as the same bytes whenever it is read (R59, log 4), also with another
bank selected where it names the same locations. -/
theorem rangeBytes_known {cells : Memory} {b b' : Byte} {a : Word16} {n : Nat}
    (hknown : ∀ i < n, ∃ v, Memory.read cells (location b (a + BitVec.ofNat 16 i)) = some v)
    (hloc : ∀ i < n, location b' (a + BitVec.ofNat 16 i) = location b (a + BitVec.ofNat 16 i))
    (d d' : Nat) : rangeBytes cells b d a n = rangeBytes cells b' d' a n := by
  refine List.map_congr_left fun i hi => ?_
  have hin : i < n := List.mem_range.mp hi
  obtain ⟨v, hv⟩ := hknown i hin
  rw [byteAt_known hv, byteAt_known ((congrArg _ (hloc i hin)).trans hv)]

/-- The `i`-th byte of a known range is the byte known there. -/
theorem getElem?_rangeBytes_known {cells : Memory} {b v : Byte} {a : Word16} {i n : Nat} (hi : i < n)
    (h : Memory.read cells (location b (a + BitVec.ofNat 16 i)) = some v) (d : Nat) :
    (rangeBytes cells b d a n)[i]? = some v := by
  rw [getElem?_rangeBytes hi, byteAt_known h]

/-- Bank windows whose bytes are known read as the same bytes in every DUMP (R59, log 4). -/
theorem windowBytes_known {cells : Memory} {n : Nat}
    (hknown : ∀ j < n, ∀ i < 0x4000, ∃ v,
      Memory.read cells (location (trunc8 (bankIndex j)) (bankWinFirst + BitVec.ofNat 16 i)) = some v)
    (d d' : Nat) : windowBytes cells d n = windowBytes cells d' n := by
  induction n with
  | zero => rw [windowBytes_zero, windowBytes_zero]
  | succ n ih =>
    have hbefore := ih fun j hj => hknown j (Nat.lt_succ_of_lt hj)
    have hlast := hknown n (Nat.lt_succ_self n)
    rw [windowBytes_succ, windowBytes_succ, hbefore,
      rangeBytes_known hlast (fun _ _ => rfl) (windowDraws d n) (windowDraws d' n)]

/-! ### DUMP over known bytes -/

/-- The response to the DUMP that `s` is about to take (R156). -/
def dumpBytes (s : State) : List Byte :=
  rangeBytes s.env.cart.cells s.env.cart.bankReg s.env.draws baseFirst 0x4000 ++
    windowBytes s.env.cart.cells s.env.draws (dumpBanks s)

theorem length_dumpBytes (s : State) : (dumpBytes s).length = 0x4000 + dumpBanks s * 0x4000 := by
  rw [dumpBytes, List.length_append, length_rangeBytes, length_windowBytes]

/-- Addresses up to 0x3FFF name the same location whatever bank is selected (R52). -/
theorem location_of_le_base {a : Word16} (h : a ≤ 0x3FFF#16) (b b' : Byte) :
    location b a = location b' a :=
  (Proofs.MemoryFamily.bankWindowDependsOnBank a b b').1 (by bv_omega)

theorem baseFirst_add_le {i : Nat} (hi : i < 0x4000) : baseFirst + BitVec.ofNat 16 i ≤ 0x3FFF#16 := by
  unfold baseFirst
  bv_omega

/-- Every byte of the cartridge that a DUMP with the ROM-size code `code` reads is known. -/
structure DumpKnown (code : Byte) (s : State) : Prop where
  romSize : s.env.cart.knownByte romSizeAddr = some code
  base : ∀ i < 0x4000, ∃ v, s.env.cart.knownByte (baseFirst + BitVec.ofNat 16 i) = some v
  windows : ∀ n, bankCount code = some n → ∀ j < n.toNat, ∀ i < 0x4000, ∃ v,
    Memory.read s.env.cart.cells
      (location (trunc8 (bankIndex j)) (bankWinFirst + BitVec.ofNat 16 i)) = some v

/-- With the same contents a DUMP reads the same ROM-size code, whatever bank is selected (R52, R154). -/
theorem DumpKnown.dumpCode_eq {code : Byte} (h : DumpKnown code s)
    (hcells : t.env.cart.cells = s.env.cart.cells) :
    dumpCode t.env.cart.cells t.env.cart.bankReg t.env.draws = code := by
  refine byteAt_known ?_ _
  rw [hcells, location_of_le_base (by decide) _ s.env.cart.bankReg]
  exact h.romSize

/-- With the same contents a DUMP reads as many banks. -/
theorem DumpKnown.dumpBanks_eq {code : Byte} (h : DumpKnown code s)
    (hcells : t.env.cart.cells = s.env.cart.cells) :
    dumpBanks t = ((bankCount code).map BitVec.toNat).getD 0 := by
  rw [dumpBanks, h.dumpCode_eq hcells]

/-- With the same contents a DUMP answers the same bytes, whatever bank is selected before it and however many
samples have been taken (R195). -/
theorem DumpKnown.dumpBytes_eq {code : Byte} (h : DumpKnown code s)
    (hcells : t.env.cart.cells = s.env.cart.cells) : dumpBytes t = dumpBytes s := by
  have hbanks : dumpBanks t = dumpBanks s := (h.dumpBanks_eq hcells).trans (h.dumpBanks_eq rfl).symm
  have hbase := rangeBytes_known (b' := t.env.cart.bankReg) h.base
    (fun i hi => location_of_le_base (baseFirst_add_le hi) _ _) s.env.draws t.env.draws
  have hwindows := windowBytes_known (cells := s.env.cart.cells) (n := dumpBanks s)
    (by
      rw [h.dumpBanks_eq rfl]
      cases hn : bankCount code with
      | none => nofun
      | some n => exact h.windows n hn) s.env.draws t.env.draws
  rw [dumpBytes, dumpBytes, hcells, hbanks, hbase, hwindows]

/-! ### The work that is left of a command -/

/-- The turns of the iterator that are left, each bank with its selection and its window (R153, R158). Before
the ROM-size code is read, more than any number of banks that BANK_W bits hold. -/
def turnsLeft (s : State) : Nat :=
  match s.phase with
  | .base => 2 * 2 ^ 9 + 1
  | .romSize => 2 * 2 ^ 9
  | .select => 2 * (s.nbanks.toNat - s.bank.toNat) + 2
  | .bankWin => 2 * (s.nbanks.toNat - s.bank.toNat) + 1
  | .single => 1
  | .range => 1
  | .none => 0
  | .done => 0

/-- The addresses that are left of a contiguous range (R152). -/
def addressesLeft (s : State) : Nat := s.endAddr.toNat + 1 - s.cur.toNat

/-- The positions that are left of a bus primitive (R103, R105, R131). -/
def positionsLeft : Micro → Nat
  | .none => 7
  | .readAddr => 6
  | .writeAddr => 6
  | .readSettle => 5
  | .writeSettle => 5
  | .readSample => 4
  | .writeDrive => 4
  | .pulseWrite => 3
  | .pulseSettle => 2
  | .pulseRead => 1

/-- The positions that are left, a Send that is due counted as one before them (R249). -/
def microLeft (s : State) : Nat := if s.rspValid then 8 else positionsLeft s.micro

/-- What is left of a command, in the order in which it is used up: the turns of the iterator, the addresses
of a range, the positions of a primitive, the edges of a settle wait. -/
def workLeft (s : State) : Nat ×ₗ Nat ×ₗ Nat ×ₗ Nat :=
  toLex (turnsLeft s, toLex (addressesLeft s, toLex (microLeft s, s.settleCnt)))

theorem workLeft_lt_of_turns (h : turnsLeft t < turnsLeft s) : workLeft t < workLeft s :=
  Prod.Lex.toLex_lt_toLex.mpr (.inl h)

theorem workLeft_lt_of_addresses (ht : turnsLeft t = turnsLeft s)
    (h : addressesLeft t < addressesLeft s) : workLeft t < workLeft s :=
  Prod.Lex.toLex_lt_toLex.mpr (.inr ⟨ht, Prod.Lex.toLex_lt_toLex.mpr (.inl h)⟩)

/-- A step that keeps the control registers leaves less work where it moves on inside its primitive. -/
theorem SameControl.workLeft_lt (hc : SameControl s t)
    (h : microLeft t < microLeft s ∨ microLeft t = microLeft s ∧ t.settleCnt < s.settleCnt) :
    workLeft t < workLeft s := by
  have hturns : turnsLeft t = turnsLeft s := by
    simp only [turnsLeft, hc.phase, hc.bank, hc.nbanks]
  have haddresses : addressesLeft t = addressesLeft s := by
    simp only [addressesLeft, hc.cur, hc.endAddr]
  exact Prod.Lex.toLex_lt_toLex.mpr (.inr ⟨hturns, Prod.Lex.toLex_lt_toLex.mpr (.inr ⟨haddresses,
    Prod.Lex.toLex_lt_toLex.mpr h⟩)⟩)

/-- A micro-step that goes on to the next position of its primitive leaves less work. -/
theorem SameControl.workLeft_lt_of_position {m : Micro} (hc : SameControl s t)
    (hv : s.rspValid = false) (hm : s.micro = m) (h : positionsLeft m = positionsLeft t.micro + 1) :
    workLeft t < workLeft s :=
  hc.workLeft_lt (.inl (by simp [microLeft, hc.rspValid, hv, hm, h]))

/-! ### Every Execute step leaves less work or ends the command -/

theorem workLeft_byteTaken (hv : s.rspValid = true) : workLeft (byteTaken s) < workLeft s := by
  have hmicro : microLeft (byteTaken s) < microLeft s := by
    have hpos : positionsLeft s.micro < 8 := by cases s.micro <;> decide
    simpa [microLeft, hv] using hpos
  exact Prod.Lex.toLex_lt_toLex.mpr (.inr ⟨rfl, Prod.Lex.toLex_lt_toLex.mpr (.inr ⟨rfl,
    Prod.Lex.toLex_lt_toLex.mpr (.inl hmicro)⟩)⟩)

theorem workLeft_settleEdge {m m' : Micro} (hv : s.rspValid = false) (hm : s.micro = m)
    (h : positionsLeft m = positionsLeft m' + 1) : workLeft (settleEdge m' s) < workLeft s := by
  have hc := sameControl_settleEdge m' s
  rcases settleEdge_cases m' s with ⟨-, he⟩ | ⟨hlt, he⟩ <;> rw [he] at hc ⊢
  · exact hc.workLeft_lt_of_position hv hm h
  · refine hc.workLeft_lt (.inr ⟨rfl, ?_⟩)
    change s.settleCnt - 1 < s.settleCnt
    omega

/-- The next bank is one bank less to go (R153 `BankWin`). -/
theorem turnsLeft_nextBank (hp : s.phase = .bankWin) (hlt : s.bank < s.nbanks) :
    turnsLeft { s with bank := s.bank + 1#9, phase := .select } < turnsLeft s := by
  have hnext : (s.bank + 1#9).toNat = s.bank.toNat + 1 := by bv_omega
  have hlt' : s.bank.toNat < s.nbanks.toNat := hlt
  simp only [turnsLeft, hp, hnext]
  omega

/-- `Next()` between two primitives (R150 to R153). -/
theorem workLeft_nextEdge (hv : s.rspValid = false) (hm : s.micro = .none) (h : nextEdge s = .next t) :
    t.dstate = .idle ∨ workLeft t < workLeft s := by
  rcases nextEdge_next h with ⟨-, -, rfl⟩ | ⟨-, -, rfl⟩ | ⟨-, rfl⟩ | ⟨hp, -, rfl⟩ |
    ⟨hp, -, hlt, rfl⟩ | ⟨hp, -, rfl⟩
  · exact .inr ((sameControl_driveDir _ _ s).workLeft_lt_of_position hv hm rfl)
  · exact .inr ((sameControl_driveDir _ _ s).workLeft_lt_of_position hv hm rfl)
  · exact .inl rfl
  · exact .inr (workLeft_lt_of_turns (by simp [turnsLeft, hp]))
  · exact .inr (workLeft_lt_of_turns (turnsLeft_nextBank hp hlt))
  · refine .inr (workLeft_lt_of_turns ?_)
    rcases hp with hp | ⟨hp, -⟩ <;> simp [turnsLeft, hp]

/-- Fewer turns are left with the banks of a code than before it was read (R153 `RomSize`). -/
theorem turnsLeft_resolveBanks (hp : s.phase = .romSize) (code : Byte) (u : State) :
    turnsLeft (resolveBanks code u) < turnsLeft s := by
  rcases resolveBanks_cases code u with ⟨n, -, he⟩ | ⟨-, he⟩ <;> rw [he]
  · simp only [turnsLeft, hp]
    bv_omega
  · simp [turnsLeft, hp]

/-- The sample step (R151 to R154). -/
theorem workLeft_sampleEdge (hr : atRead s = true) (h : sampleEdge s = .next t) :
    workLeft t < workLeft s := by
  rcases sampleEdge_next h with ⟨hp, rfl⟩ | ⟨hp, rfl⟩ | ⟨hp, rfl⟩
  · exact workLeft_lt_of_turns (by simp [turnsLeft, hp])
  · have hleft : s.cur.toNat ≤ s.endAddr.toNat := by
      refine rangeLeft_iff.mp ?_
      rcases hp with hp | hp | hp <;> simpa [atRead, hp] using hr
    have hnext : (s.cur + 1#17).toNat = s.cur.toNat + 1 := by bv_omega
    refine workLeft_lt_of_addresses rfl ?_
    change s.endAddr.toNat + 1 - (s.cur + 1#17).toNat < s.endAddr.toNat + 1 - s.cur.toNat
    omega
  · exact workLeft_lt_of_turns (turnsLeft_resolveBanks hp _ _)

/-- The end of the Write pulse leaves the bank's window to read (R131, R153). -/
theorem turnsLeft_selectEnd (hp : s.phase = .select) : turnsLeft (selectEnd s) < turnsLeft s := by
  simp [turnsLeft, hp, selectEnd, setMode]

/-- Every Execute step of a legal state with no byte waiting (R33). -/
theorem State.Legal.workLeft_runEdge (h : s.Legal) (hv : s.rspValid = false)
    (hr : runEdge s = .next t) : t.dstate = .idle ∨ workLeft t < workLeft s := by
  have hpos := h.positionOk
  rcases runEdge_next hr with ⟨hm, hn⟩ | ⟨hm, rfl⟩ | ⟨hm, rfl⟩ | ⟨hm, hn⟩ | ⟨hm, rfl⟩ | ⟨hm, rfl⟩ |
    ⟨hm, rfl⟩ | ⟨hm, rfl⟩ | ⟨hm, rfl⟩ | ⟨hm, rfl⟩
  · exact workLeft_nextEdge hv hm hn
  · exact .inr ((sameControl_driveAddr _ _ s).workLeft_lt_of_position hv hm rfl)
  · exact .inr (workLeft_settleEdge hv hm rfl)
  · simp only [positionFits, hm, Bool.and_eq_true] at hpos
    obtain ⟨⟨hread, -⟩, -⟩ := hpos
    exact .inr (workLeft_sampleEdge hread hn)
  · exact .inr ((sameControl_driveAddr _ _ s).workLeft_lt_of_position hv hm rfl)
  · exact .inr (workLeft_settleEdge hv hm rfl)
  · exact .inr ((sameControl_driveData _ _ s).workLeft_lt_of_position hv hm rfl)
  · exact .inr ((sameControl_selectPulse s).workLeft_lt_of_position hv hm rfl)
  · exact .inr (workLeft_settleEdge hv hm rfl)
  · simp only [positionFits, hm, Bool.and_eq_true, beq_iff_eq] at hpos
    obtain ⟨⟨⟨hphase, -⟩, -⟩, -⟩ := hpos
    exact .inr (workLeft_lt_of_turns (turnsLeft_selectEnd hphase))

/-! ### Every legal executing state has a next state -/

/-- In Read mode `Next()` answers wherever a command of the map executes (R104, R131, R185). -/
theorem nextEdge_answers (hmode : s.mode = .read) (hcmd : s.phase = .none → s.cmd = 0x01#8) :
    ∃ t, nextEdge s = .next t := by
  have hread : beginRead s = .next (driveDir .input .readAddr s) := by simp only [beginRead, hmode]
  have hselect : beginSelect s = .next (driveDir .output .writeAddr s) := by
    simp only [beginSelect, hmode]
  cases hp : s.phase with
  | none => simp only [nextEdge, hp, if_pos (hcmd hp)]; exact ⟨_, rfl⟩
  | single | romSize => simp only [nextEdge, hp, hread]; exact ⟨_, rfl⟩
  | select => simp only [nextEdge, hp, hselect]; exact ⟨_, rfl⟩
  | range | base | bankWin => simp only [nextEdge, hp, hread]; split_ifs <;> exact ⟨_, rfl⟩
  | done => cases he : s.iterEnd <;> simp only [nextEdge, hp, he] <;> exact ⟨_, rfl⟩

/-- An Execute step of a legal state with no byte waiting faults nowhere (R220). -/
theorem State.Legal.runEdge_answers (h : s.Legal) (hd : s.dstate = .executing)
    (hv : s.rspValid = false) : ∃ t, runEdge s = .next t := by
  have hpos := h.positionOk
  cases hm : s.micro with
  | none =>
    simp only [runEdge, hm]
    refine nextEdge_answers (h.busAtRest hm).mode fun hp => ?_
    simpa [hp, phaseFits] using (h.cmdOk hd).2
  | readSample =>
    simp only [positionFits, hm, Bool.and_eq_true] at hpos
    obtain ⟨⟨hread, -⟩, -⟩ := hpos
    obtain ⟨t, ht, -⟩ := sampleEdge_of_atRead hread hv
    exact ⟨t, by simp only [runEdge, hm, ht]⟩
  | _ => simp only [runEdge, hm]; exact ⟨_, rfl⟩

/-- A step of an attended block that executes a command ends it, or continues it with less work left and the
block attended (R196). -/
theorem State.Legal.step_attended (h : s.Legal) (hd : s.dstate = .executing) (ha : s.attended) :
    ∃ t, step s = .next t ∧
      (t.dstate = .idle ∨ t.dstate = .executing ∧ t.attended ∧ workLeft t < workLeft s) := by
  cases hv : s.rspValid with
  | true => exact ⟨_, step_attended_send ha hd hv, .inr ⟨hd, ha, workLeft_byteTaken hv⟩⟩
  | false =>
    obtain ⟨t, hr⟩ := h.runEdge_answers hd hv
    refine ⟨t, step_of_runEdge ha hd hv hr, ?_⟩
    rcases runEdge_continues_or_ends hr with hc | ⟨-, rfl⟩
    · refine (h.workLeft_runEdge hv hr).imp_right fun hlt => ⟨hc.dstate.trans hd, ?_, hlt⟩
      rw [State.attended, hc.pins, hc.upcoming]
      exact ha
    · exact .inl rfl

/-- An attended block comes to the end of its command (R196). -/
theorem State.Legal.reaches_idle (h : s.Legal) (hd : s.dstate = .executing) (ha : s.attended) :
    ∃ t, Reaches s t ∧ t.dstate = .idle := by
  induction hw : workLeft s using WellFoundedLT.induction generalizing s with
  | _ w ih =>
    subst hw
    obtain ⟨t, hs, hi | ⟨hd', ha', hlt⟩⟩ := h.step_attended hd ha
    · exact ⟨t, .of_step hs, hi⟩
    · obtain ⟨u, hreach, hi⟩ := ih (workLeft t) hlt (h.after_step hs) hd' ha' rfl
      exact ⟨u, (Reaches.of_step hs).trans hreach, hi⟩

end Sys2Proof.Machine

/-! ### The obligations -/

namespace Sys2Proof.Proofs.DispatcherFamily

open Sys2Proof.Machine

/-- Settles O9: a byte outside 0x01 to 0x08 is only taken, and the instruction of any other begins its
command. -/
theorem acceptStartsRecognised : Obligations.AcceptStartsRecognised := by
  intro s c hd hr ho
  refine ⟨(cmdReady_iff s).mpr ⟨hd, hr⟩, ?_⟩
  cases hc : isCommandByte c with
  | false => exact ⟨_, [], step_take_ignored hr hd ho hc, rfl, by simp, nofun, fun _ => ⟨hd, rfl⟩⟩
  | true =>
    have hcode : encodeByte (decodeByte c) = c := encodeByte_decodeByte c
    obtain ⟨t, ht, hcmd, hexec⟩ := exec_begins (wellFormed_decodeByte c) (by rw [hcode, hc])
      (takeByte c (advanceInputs s))
    obtain ⟨es, htrace, -⟩ := exec_events ht
    refine ⟨t, es, (step_take hr hd ho).trans ht, by simp [htrace], by simp [exec_env ht],
      fun _ => ⟨hcmd.trans hcode, hexec⟩, nofun⟩

/-- Settles O31: one edge of either kind, and by induction any number of edges with rsp_ready = 0. -/
theorem responseByteWaits : Obligations.ResponseByteWaits := by
  refine ⟨fun s hd hv hr hp => step_waitRsp hr hd hv hp, fun s hd hv hr hp => step_sendRsp hr hd hv hp,
    fun s k hd hv hwait => ?_⟩
  have hrun := runSteps_waitRsp hd hv hwait
  refine ⟨hrun, fun hr hp => (runSteps_concat hrun (step_sendRsp hr hd hv hp)).trans ?_⟩
  simp [byteTaken, emit, advanceInputs, advance_advanceBy]

/-- Settles O32: an Execute step that continues the command keeps the transport's bytes, and so does the one
that ends it. -/
theorem busyBlockTakesNoByte : Obligations.BusyBlockTakesNoByte := by
  refine fun s hd => ⟨by simp [State.cmdReady, hd], fun t hrst hs => ?_⟩
  rcases step_continues_or_ends hrst hd hs with hc | ⟨-, -, rfl⟩
  · exact ⟨hc.rx.trans (advance_rx s.env), hc.events⟩
  · exact ⟨advance_rx s.env, _, rfl, accept_notMem_bracketEnd s.status⟩

/-- Settles O34: every other Execute step keeps DSTATE. -/
theorem executingLeftOnlyAtEnd : Obligations.ExecutingLeftOnlyAtEnd := by
  intro s t hrst hd hs hi
  rcases step_continues_or_ends hrst hd hs with hc | ⟨hv, ⟨hm, hp⟩, -⟩
  · have hstays : t.dstate = .executing := hc.dstate.trans hd
    simp [hstays] at hi
  · exact ⟨hv, hm, hp⟩

/-- Settles O42: the step keeps the legal states, and an idle one has no primitive in progress. -/
theorem modeReadAfterCommand : Obligations.ModeReadAfterCommand :=
  fun _ _ h _ hs hi => (h.after_step hs).mode_read_of_idle hi

/-- Settles O46: the accepting edge, the Send, and `End()` outside a status bracket. -/
theorem probeCommand : Obligations.ProbeCommand := by
  intro s h
  have htrace := h.trace_probe
  refine ⟨_, h.runSteps_probe, h.finished_probe, htrace, ?_, ?_⟩
  · rw [htrace, responseBytes_append]; rfl
  · simp [probeSent, probeValue]

/-- Settles O47: the accepting edge, the one read with its Send, and `End()`. -/
theorem singleReadCommands : Obligations.SingleReadCommands := by
  intro s c a hrow h
  obtain ⟨hc, rfl⟩ : ReadsByte c ∧ a = singleAddr c := by
    simp only [List.mem_cons, Prod.mk.injEq, List.not_mem_nil, or_false] at hrow
    rcases hrow with ⟨rfl, rfl⟩ | ⟨rfl, rfl⟩ | ⟨rfl, rfl⟩
    · exact ⟨.inl rfl, rfl⟩
    · exact ⟨.inr (.inl rfl), rfl⟩
    · exact ⟨.inr (.inr rfl), rfl⟩
  obtain ⟨hddir, haddr, hrsp, hdout, hcmd⟩ := registers_singleDone c s
  exact ⟨singleDone c s, h.runSteps_singleDone hc, h.finished_singleDone hc, h.trace_singleDone,
    h.response_singleDone, hddir, haddr, hrsp, hdout, hcmd, env_singleDone c s⟩

/-- Settles O48: the accepting edge, the reads of the field, the turn of `Next()` that ends it, and
`End()`. -/
theorem rangeReadCommands : Obligations.RangeReadCommands := by
  intro s c first last n hrow h
  obtain ⟨hc, rfl, rfl, m, rfl, hm, hlast⟩ : ReadsField c ∧ first = rangeFirst c ∧ last = rangeLast c ∧
      ∃ m, n = m + 1 ∧ FieldEnds c m ∧ rangeFirst c + BitVec.ofNat 16 m = rangeLast c := by
    simp only [List.mem_cons, Prod.mk.injEq, List.not_mem_nil, or_false] at hrow
    rcases hrow with ⟨rfl, rfl, rfl, rfl⟩ | ⟨rfl, rfl, rfl, rfl⟩ | ⟨rfl, rfl, rfl, rfl⟩
    · exact ⟨.inl rfl, rfl, rfl, 15, rfl, rfl, rfl⟩
    · exact ⟨.inr (.inl rfl), rfl, rfl, 47, rfl, rfl, rfl⟩
    · exact ⟨.inr (.inr rfl), rfl, rfl, 1, rfl, rfl, rfl⟩
  refine ⟨rangeDone c m s, h.runSteps_rangeDone hc hm, h.finished_rangeDone hc hm,
    trace_rangeDone c m s, response_rangeDone c m s, ?_⟩
  rw [env_rangeDone]
  simp [rangeDone, rangeRead, rangeAddr, rangeStarted, initRange, hlast]

/-- Settles O53: the second call starts from the block at rest the first leaves, on the same known bytes. -/
theorem headerReadsIdempotent : Obligations.HeaderReadsIdempotent := by
  intro s c first n rest hrow h hrx hknown
  obtain ⟨t, ht⟩ := h.headerDone hrow
  obtain ⟨u, hu⟩ := (ht.ready hrx).headerDone hrow
  refine ⟨u, rangeBytes s.env.cart.cells s.env.cart.bankReg s.env.draws first n,
    ht.reaches.trans hu.reaches, hu.idle, by simp [hu.rx, ht.rx, hrx], length_rangeBytes _ _ _ _ _,
    fun i hi => ?_, ?_⟩
  · obtain ⟨v, hv⟩ := hknown i hi
    rw [hv, getElem?_rangeBytes_known hi hv]
  · rw [hu.response, ht.response, ht.cart,
      rangeBytes_known hknown (fun _ _ => rfl) t.env.draws s.env.draws]

/-- Settles O54: the three shapes of a command with their counts of steps and the cartridge left out. -/
theorem commandTraces : Obligations.CommandTraces := by
  refine ⟨fun s h => ?_, fun s c a hrow h => ?_, fun s c first last n hrow h => ?_⟩
  · obtain ⟨t, hrun, hfin, htrace, hresponse, hrsp, haddr, hddir, hdout, hmode, -⟩ := probeCommand s h
    exact ⟨t, ⟨_, hrun⟩, hfin.idle, hfin.statusOff, htrace, hresponse, hrsp, hmode, haddr, hddir,
      hdout⟩
  · obtain ⟨t, hrun, hfin, htrace, hresponse, hddir, haddr, hrsp, hdout, -, -⟩ :=
      singleReadCommands s c a hrow h
    exact ⟨t, _, ⟨_, hrun⟩, hfin.idle, hfin.statusOff, hfin.phase_none, by simp [htrace], hresponse,
      hrsp, hfin.modeRead, haddr, hddir, hdout⟩
  · obtain ⟨t, hrun, hfin, htrace, hresponse, hddir, haddr, hdout, -, -⟩ :=
      rangeReadCommands s c first last n hrow h
    exact ⟨t, _, ⟨_, hrun⟩, hfin.idle, hfin.statusOff, hfin.phase_none, length_rangeBytes _ _ _ _ _,
      by rw [htrace, rangeEvents_eq_readsOf], hresponse, hfin.modeRead, haddr, hddir, hdout⟩

/-- Settles O56: the first DUMP keeps the cartridge's contents, and the response does not depend on the bank
it leaves selected. -/
theorem dumpIdempotent : Obligations.DumpIdempotent := by
  intro s rest code h hrx hcode hbase hwindows
  have hknown : DumpKnown code s :=
    { romSize := hcode
      base := fun i hi => hbase _ (baseFirst_add_le hi)
      windows := fun n hn j hj i hi =>
        hwindows n hn (j + 1) (by omega) hj _ (by unfold bankWinFirst; bv_omega)
          (by unfold bankWinFirst; bv_omega) }
  obtain ⟨t, ht⟩ := h.dumpDone
  obtain ⟨u, hu⟩ := (ht.ready hrx).dumpDone
  refine ⟨u, dumpBytes s, ht.reaches.trans hu.reaches, hu.idle, by simp [hu.rx, ht.rx, hrx],
    fun n hn => ?_, fun hn => ?_, ?_⟩
  · simp [length_dumpBytes, hknown.dumpBanks_eq (t := s) rfl, hn]
  · simp [length_dumpBytes, hknown.dumpBanks_eq (t := s) rfl, hn]
  · have hsecond : dumpBytes t = dumpBytes s := hknown.dumpBytes_eq ht.cells
    have hresponse : responseBytes t.trace = responseBytes s.trace ++ dumpBytes s := ht.response
    rw [← hresponse, ← hsecond]
    exact hu.response

/-- Settles O58: every step uses up some of the work left, and the idle state it comes to is legal. -/
theorem commandsComplete : Obligations.CommandsComplete := by
  intro s h hd ha
  obtain ⟨t, hreach, hi⟩ := h.reaches_idle hd ha
  have hl : t.Legal := hreach.legal h
  obtain ⟨-, -, -, hoff⟩ := hl.idleOk hi
  exact ⟨t, hreach, hi, hl.mode_read_of_idle hi, hoff⟩

/-- Settles O8: the bytes begin with the code of the instruction, which is the byte the step takes. -/
theorem stepRunsDecodedInstruction : Obligations.StepRunsDecodedInstruction := by
  intro s i rest hd hr ho hdec
  obtain ⟨c, hrx, rfl⟩ := decode_eq_ok hdec
  have hoffer : s.env.offered = some c := by simp [Env.offered, ho, hrx]
  refine ⟨wellFormed_decodeByte c, ?_⟩
  rw [step_take hr hd hoffer, takeByte_advanceInputs, encodeByte_decodeByte, hrx, List.tail_cons]

/-- Settles O10, by the meaning of PROBE. -/
theorem probeStarts : Obligations.ProbeStarts :=
  fun s => exec_probe s

/-- Settles O11, by the three meanings and their addresses. -/
theorem singleReadsStart : Obligations.SingleReadsStart :=
  fun s => ⟨exec_rdtype s, exec_rdromsz s, exec_rdgbc s⟩

/-- Settles O12, by the three meanings and their fields. -/
theorem rangeReadsStart : Obligations.RangeReadsStart :=
  fun s => ⟨exec_rdtitle s, exec_rdlogo s, exec_rdcksum s⟩

/-- Settles O13, by the meaning of DUMP. -/
theorem dumpStarts : Obligations.DumpStarts :=
  fun s => exec_dump s

end Sys2Proof.Proofs.DispatcherFamily
end

section
/-! PROOFS. The family of spec/60_exceptions.md: the abort, that no legal state stops the machine, and that the
bytes read from the cartridge steer no step but the one that samples the ROM-size code. -/

namespace Sys2Proof.Machine

variable {s : State}

/-! ### The abort -/

/-- In Done `Next()` returns its outcome, and on either the dispatcher ends the command (R180, R181, R221). -/
theorem nextEdge_done (hp : s.phase = .done) : nextEdge s = .next (endCommand s) := by
  cases he : s.iterEnd <;> simp only [nextEdge, hp, he, abortCommand]

/-- `End()` in the status bracket (R181, R183). -/
theorem endCommand_blinking (h : s.status = .blinking) :
    endCommand s = { s with
      status := .off, phase := .none, dstate := .idle
      trace := s.trace ++ [.status .off], clocks := s.clocks + 1 } := by
  simp only [endCommand, h, bracketEnd, emitAll, List.length_singleton]

/-! ### No legal state stops the machine -/

/-- Every meaning answers a next state from every state. -/
theorem exec_answers (i : Instr) (s : State) : ∃ t, exec i s = .next t := by
  cases i <;> exact ⟨_, rfl⟩

/-- Only an Execute step could fault, and in a legal state it does not (R104, R131, R220). -/
theorem State.Legal.step_answers (h : s.Legal) : ∃ t, step s = .next t := by
  rcases edgeOf_cases s with ⟨-, hr⟩ | ⟨hr, hd, ⟨c, -, ho⟩ | ⟨-, ho⟩⟩ |
    ⟨hr, hd, ⟨-, hv, hp⟩ | ⟨-, hv, hp⟩ | ⟨-, hv⟩⟩
  · exact ⟨_, step_reset hr⟩
  · rw [step_take hr hd ho]
    exact exec_answers _ _
  · exact ⟨_, step_poll hr hd ho⟩
  · exact ⟨_, step_sendRsp hr hd hv hp⟩
  · exact ⟨_, step_waitRsp hr hd hv hp⟩
  · rw [step_run hr hd hv]
    exact h.after_advanceInputs.runEdge_answers hd hv

/-! ### A state without the data read from the cartridge

Each operation commutes with `State.eraseData`: what it does to the registers that are left does not depend on
what is erased (R223). -/

@[simp] theorem Event.eraseData_eraseData (e : Event) : e.eraseData.eraseData = e.eraseData := by
  cases e <;> rfl

@[simp] theorem eraseData_eraseData (s : State) : s.eraseData.eraseData = s.eraseData := by
  simp [State.eraseData]

@[simp] theorem eraseData_phase (s : State) : s.eraseData.phase = s.phase := rfl
@[simp] theorem eraseData_micro (s : State) : s.eraseData.micro = s.micro := rfl
@[simp] theorem eraseData_mode (s : State) : s.eraseData.mode = s.mode := rfl
@[simp] theorem eraseData_addr (s : State) : s.eraseData.addr = s.addr := rfl
@[simp] theorem eraseData_cmd (s : State) : s.eraseData.cmd = s.cmd := rfl
@[simp] theorem eraseData_bank (s : State) : s.eraseData.bank = s.bank := rfl
@[simp] theorem eraseData_nbanks (s : State) : s.eraseData.nbanks = s.nbanks := rfl
@[simp] theorem rangeLeft_eraseData (s : State) : rangeLeft s.eraseData = rangeLeft s := rfl
@[simp] theorem readOperand_eraseData (s : State) : readOperand s.eraseData = readOperand s := rfl
@[simp] theorem writeOperand_eraseData (s : State) : writeOperand s.eraseData = writeOperand s := rfl
@[simp] theorem edgeOf_eraseData (s : State) : edgeOf s.eraseData = edgeOf s := rfl

/-! #### Events, inputs, the response byte -/

theorem eraseData_emit (e : Event) (s : State) :
    (emit e s).eraseData = emit e.eraseData s.eraseData := by
  simp [State.eraseData, emit]

theorem eraseData_wait (s : State) : (wait s).eraseData = wait s.eraseData := rfl

theorem eraseData_advanceInputs (s : State) :
    (advanceInputs s).eraseData = advanceInputs s.eraseData := by
  cases hu : s.env.upcoming <;> simp [State.eraseData, advanceInputs, Env.advance, hu]

theorem eraseData_resetEdge (s : State) : (resetEdge s).eraseData = resetEdge s.eraseData := rfl

theorem eraseData_takeByte (c : Byte) (s : State) :
    (takeByte c s).eraseData = takeByte c s.eraseData := eraseData_emit _ _

theorem eraseData_offerByte (v : Byte) (s : State) :
    (offerByte v s).eraseData = offerByte 0#8 s.eraseData := rfl

theorem eraseData_byteTaken (s : State) : (byteTaken s).eraseData = byteTaken s.eraseData :=
  eraseData_emit _ _

/-! #### Start and end of a command -/

theorem eraseData_beginCommand (c : Byte) (s : State) :
    (beginCommand c s).eraseData = beginCommand c s.eraseData := rfl

theorem eraseData_statusOn (s : State) : (statusOn s).eraseData = statusOn s.eraseData :=
  eraseData_emit _ _

theorem eraseData_initSingle (a : Word16) (s : State) :
    (initSingle a s).eraseData = initSingle a s.eraseData := rfl

theorem eraseData_initRange (first last : Word16) (s : State) :
    (initRange first last s).eraseData = initRange first last s.eraseData := rfl

theorem eraseData_initBanked (s : State) : (initBanked s).eraseData = initBanked s.eraseData := rfl

theorem eraseData_finish (x : IterEnd) (s : State) :
    (finish x s).eraseData = finish x s.eraseData := rfl

theorem eraseData_endCommand (s : State) : (endCommand s).eraseData = endCommand s.eraseData := by
  cases hs : s.status <;>
    simp [State.eraseData, endCommand, emitAll, bracketEnd, hs, Event.eraseData]

/-! #### The bus primitives -/

theorem eraseData_driveDir (d : Dir) (m : Micro) (s : State) :
    (driveDir d m s).eraseData = driveDir d m s.eraseData := eraseData_emit _ _

theorem eraseData_loadSettle (s : State) : (loadSettle s).eraseData = loadSettle s.eraseData := rfl

theorem eraseData_driveAddr (a : Word16) (m : Micro) (s : State) :
    (driveAddr a m s).eraseData = driveAddr a m s.eraseData :=
  congrArg loadSettle (eraseData_emit (.addr a) { s with addr := a, micro := m })

theorem eraseData_driveData (v : Byte) (m : Micro) (s : State) :
    (driveData v m s).eraseData = driveData v m s.eraseData := eraseData_emit _ _

theorem eraseData_settleEdge (m : Micro) (s : State) :
    (settleEdge m s).eraseData = settleEdge m s.eraseData := by
  rcases Nat.lt_or_ge 1 s.settleCnt with hc | hc
  · rw [settleEdge_of_one_lt m hc, settleEdge_of_one_lt (s := s.eraseData) m hc, eraseData_wait]
    rfl
  · rw [settleEdge_of_le_one m hc, settleEdge_of_le_one (s := s.eraseData) m hc, eraseData_emit]
    rfl

/-- The byte sampled and the count of samples are erased. -/
theorem eraseData_sampleBus (s : State) :
    (sampleBus s).eraseData = emit (.sample s.addr 0#8) { s.eraseData with micro := .none } :=
  eraseData_emit _ _

/-- What the cartridge does with a mode change is erased (log 5). -/
theorem eraseData_setMode (m : Mode) (n : Micro) (s : State) :
    (setMode m n s).eraseData = emit (.mode m) { s.eraseData with mode := m, micro := n } :=
  eraseData_emit _ _

theorem eraseData_selectPulse (s : State) :
    (selectPulse s).eraseData = (selectPulse s.eraseData).eraseData := by
  simp only [selectPulse, eraseData_loadSettle, eraseData_setMode, eraseData_eraseData]

theorem eraseData_selectEnd (s : State) :
    (selectEnd s).eraseData = (selectEnd s.eraseData).eraseData := by
  have h : (setMode .read .none s).eraseData = (setMode .read .none s.eraseData).eraseData := by
    simp only [eraseData_setMode, eraseData_eraseData]
  exact congrArg (fun u : State =>
    { u with cur := zext17 bankWinFirst, endAddr := bankWinLast, phase := .bankWin }) h

theorem eraseData_returnNext (v : Byte) (s : State) :
    (returnNext v s).eraseData = returnNext 0#8 s.eraseData := rfl

/-! #### The steps -/

/-- No meaning looks at what is erased (R185 to R193). -/
theorem eraseOutcome_exec (i : Instr) (s : State) :
    eraseOutcome (exec i s) = eraseOutcome (exec i s.eraseData) := by
  cases i <;>
    simp [eraseOutcome, eraseData_offerByte, eraseData_beginCommand, eraseData_statusOn,
      eraseData_initSingle, eraseData_initRange, eraseData_initBanked]

/-- The bus mode alone decides whether a primitive starts (R104, R131). -/
theorem eraseOutcome_beginRead (s : State) : eraseOutcome (beginRead s) = beginRead s.eraseData := by
  cases hm : s.mode <;> simp only [beginRead, eraseData_mode, hm, eraseOutcome, eraseData_driveDir]

theorem eraseOutcome_beginSelect (s : State) :
    eraseOutcome (beginSelect s) = beginSelect s.eraseData := by
  cases hm : s.mode <;> simp only [beginSelect, eraseData_mode, hm, eraseOutcome, eraseData_driveDir]

/-- `Next()` reads nothing that is erased (R150 to R153, R223). -/
theorem eraseOutcome_nextEdge (s : State) : eraseOutcome (nextEdge s) = nextEdge s.eraseData := by
  cases hr : atRead s with
  | true =>
    rw [nextEdge_of_atRead hr, nextEdge_of_atRead (s := s.eraseData) hr, eraseOutcome_beginRead]
  | false =>
    cases hp : s.phase with
    | single | romSize => simp [atRead, hp] at hr
    | select => simp only [nextEdge, eraseData_phase, hp, eraseOutcome_beginSelect]
    | done =>
      rw [nextEdge_done hp, nextEdge_done (s := s.eraseData) hp, eraseOutcome, eraseData_endCommand]
    | none =>
      by_cases hc : s.cmd = 0x01#8 <;>
        simp [nextEdge, hp, hc, eraseOutcome, eraseData_endCommand]
    | range | base =>
      have hl : rangeLeft s = false := by simpa [atRead, hp] using hr
      simp only [nextEdge, eraseData_phase, rangeLeft_eraseData, hp, hl, Bool.false_eq_true, if_false]
      rfl
    | bankWin =>
      have hl : rangeLeft s = false := by simpa [atRead, hp] using hr
      by_cases hb : s.bank < s.nbanks <;> simp [nextEdge, hp, hl, hb, eraseOutcome] <;> rfl

/-- Outside the phase RomSize the byte sampled is only returned (R151 to R153, R223). -/
theorem eraseOutcome_sampleEdge (h : s.phase ≠ .romSize) :
    eraseOutcome (sampleEdge s) = eraseOutcome (sampleEdge s.eraseData) := by
  cases hp : s.phase with
  | romSize => exact absurd hp h
  | single =>
    simp only [sampleEdge, eraseData_phase, hp, eraseOutcome, eraseData_offerByte, eraseData_finish,
      eraseData_sampleBus, eraseData_addr, eraseData_eraseData]
  | range | base | bankWin =>
    simp only [sampleEdge, eraseData_phase, hp, eraseOutcome, eraseData_returnNext,
      eraseData_sampleBus, eraseData_addr, eraseData_eraseData]
  | none | select | done => simp only [sampleEdge, eraseData_phase, hp]

/-- No Execute step but the sample of the ROM-size code looks at what is erased (R223). -/
theorem eraseOutcome_runEdge (h : ¬ (s.micro = .readSample ∧ s.phase = .romSize)) :
    eraseOutcome (runEdge s) = eraseOutcome (runEdge s.eraseData) := by
  cases hm : s.micro with
  | none =>
    simp only [runEdge, eraseData_micro, hm, eraseOutcome_nextEdge, eraseData_eraseData]
  | readSample =>
    simp only [runEdge, eraseData_micro, hm]
    exact eraseOutcome_sampleEdge fun hp => h ⟨hm, hp⟩
  | readAddr | writeAddr =>
    simp only [runEdge, eraseData_micro, hm, selectAddr, eraseOutcome, eraseData_driveAddr,
      readOperand_eraseData, eraseData_eraseData]
  | readSettle | writeSettle | pulseSettle =>
    simp only [runEdge, eraseData_micro, hm, eraseOutcome, eraseData_settleEdge, eraseData_eraseData]
  | writeDrive =>
    simp only [runEdge, eraseData_micro, hm, selectData, eraseOutcome, eraseData_driveData,
      writeOperand_eraseData, eraseData_eraseData]
  | pulseWrite =>
    simp only [runEdge, eraseData_micro, hm, eraseOutcome]
    rw [eraseData_selectPulse]
  | pulseRead =>
    simp only [runEdge, eraseData_micro, hm, eraseOutcome]
    rw [eraseData_selectEnd]

/-- A step of a state and of what is left of it end alike, but where the ROM-size code is sampled (R223,
R225). -/
theorem eraseOutcome_step (h : ¬ (s.micro = .readSample ∧ s.phase = .romSize)) :
    eraseOutcome (step s) = eraseOutcome (step s.eraseData) := by
  have hadv := eraseData_advanceInputs s
  cases he : edgeOf s with
  | reset =>
    simp only [step, edgeOf_eraseData, he, eraseOutcome, eraseData_resetEdge, ← hadv, eraseData_eraseData]
  | poll | waitRsp =>
    simp only [step, edgeOf_eraseData, he, eraseOutcome, eraseData_wait, ← hadv, eraseData_eraseData]
  | sendRsp =>
    simp only [step, edgeOf_eraseData, he, eraseOutcome, eraseData_byteTaken, ← hadv,
      eraseData_eraseData]
  | take c =>
    simp only [step, edgeOf_eraseData, he]
    rw [eraseOutcome_exec, eraseData_takeByte, hadv]
  | run =>
    simp only [step, edgeOf_eraseData, he]
    rw [eraseOutcome_runEdge (s := advanceInputs s) h, hadv]

end Sys2Proof.Machine

/-! ### The obligations -/

namespace Sys2Proof.Proofs.ExceptionsFamily

open Sys2Proof.Machine

/-- Settles O36: the edges that only wait, take or send answer always, and the Execute step by the rules of a
legal state. -/
theorem legalNeverStops : Obligations.LegalNeverStops :=
  fun _ h => h.step_answers

/-- Settles O45: both steps end like that of the state the two have in common when the data are erased. -/
theorem busDataDoesNotSteer : Obligations.BusDataDoesNotSteer := by
  intro s t hst hs
  have hmicro : s.micro = t.micro := by rw [← eraseData_micro s, hst, eraseData_micro]
  have hphase : s.phase = t.phase := by rw [← eraseData_phase s, hst, eraseData_phase]
  have ht : ¬ (t.micro = .readSample ∧ t.phase = .romSize) := by rwa [← hmicro, ← hphase]
  rw [eraseOutcome_step hs, eraseOutcome_step ht, hst]

/-- Settles O30: the edge after the abort is `End()`, in the status bracket. -/
theorem abortEndsCommand : Obligations.AbortEndsCommand := by
  intro s hrst hd hv hm hp _ hstatus
  have hrun : runEdge (advanceInputs s) = nextEdge (advanceInputs s) := by
    simp only [runEdge, advanceInputs_micro, hm]
  rw [step_run hrst hd hv, hrun, nextEdge_done (s := advanceInputs s) hp,
    endCommand_blinking (s := advanceInputs s) hstatus]
  rfl

end Sys2Proof.Proofs.ExceptionsFamily
end

section
/-! PROOFS. The family of spec/70_reset_and_hazards.md: what a clock edge with rst = 1 leaves behind, and that the
bus is quiet while the block waits. -/

namespace Sys2Proof.Machine

variable {s t : State}

/-! ### Reset -/

/-- `t` is `s` after `Reset()` (R240): the registers it names have their values, no primitive is in progress
(R241), and the other registers, the trace and the transport's bytes are those of `s`. -/
structure ResetApplied (s t : State) : Prop where
  mode : t.mode = .read
  ddir : t.ddir = .input
  dstate : t.dstate = .idle
  phase : t.phase = .none
  status : t.status = .off
  rspValid : t.rspValid = false
  settleCnt : t.settleCnt = 0
  micro : t.micro = .none
  addr : t.addr = s.addr
  dout : t.dout = s.dout
  cmd : t.cmd = s.cmd
  rsp : t.rsp = s.rsp
  cur : t.cur = s.cur
  endAddr : t.endAddr = s.endAddr
  bank : t.bank = s.bank
  nbanks : t.nbanks = s.nbanks
  romcode : t.romcode = s.romcode
  trace : t.trace = s.trace
  rx : t.env.rx = s.env.rx

/-- Reset wins over whatever else is pending (R226), so rst = 1 alone makes the step apply it. -/
theorem step_applies_reset (hr : s.env.pins.rst = true) :
    ∃ t, step s = .next t ∧ ResetApplied s t := by
  refine ⟨resetEdge (advanceInputs s), step_reset hr, ?_⟩
  constructor
  case rx => exact advance_rx s.env
  all_goals rfl

/-- While rst = 1 the block offers to take no command byte (R36, R240). -/
theorem cmdReady_of_rst (hr : s.env.pins.rst = true) : s.cmdReady = false := by
  simp [State.cmdReady, hr]

/-- In Idle only reset keeps the block from taking a command byte (R36, R240). -/
theorem cmdReady_of_idle (hd : s.dstate = .idle) : s.cmdReady = !s.env.pins.rst := by
  simp [State.cmdReady, hd]

/-! ### The quiet bus -/

/-- `t` has the bus registers of `s`. -/
structure SameBus (s t : State) : Prop where
  mode : t.mode = s.mode
  addr : t.addr = s.addr
  ddir : t.ddir = s.ddir
  dout : t.dout = s.dout

/-- The bus lines are functions of the bus registers (R22, R23, R24, R36). -/
theorem SameBus.lines (h : SameBus s t) :
    t.addrHigh = s.addrHigh ∧ t.addrLow = s.addrLow ∧ t.dataEnable = s.dataEnable ∧
      t.dataLines = s.dataLines ∧ t.rd = s.rd ∧ t.wr = s.wr := by
  simp only [State.addrHigh, State.addrLow, State.dataEnable, State.dataLines, State.rd, State.wr,
    h.mode, h.addr, h.ddir, h.dout, and_self]

/-- The edge that takes a command byte keeps the bus registers, whatever the command (R180). -/
theorem sameBus_accept {i : Instr} {c : Byte} (h : exec i (takeByte c s) = .next t) :
    SameBus s t := by
  obtain ⟨-, hmode, haddr, hddir, hdout, -⟩ := Proofs.StateFamily.instructionStartFrame _ _ _ h
  exact ⟨hmode, haddr, hddir, hdout⟩

/-- Only an Execute step drives the bus, and in Idle, or while a response byte waits, the step is none
(R245). -/
theorem sameBus_step (hrst : s.env.pins.rst = false) (hw : s.dstate = .idle ∨ s.rspValid = true)
    (h : step s = .next t) : SameBus s t := by
  rcases step_next h with ⟨hr, -⟩ | ⟨-, -, ⟨c, -, he⟩ | ⟨-, rfl⟩⟩ |
    ⟨-, hd, ⟨-, -, rfl⟩ | ⟨-, -, rfl⟩ | ⟨hv, -⟩⟩
  · simp [hrst] at hr
  · obtain ⟨hmode, haddr, hddir, hdout⟩ := sameBus_accept he
    exact ⟨hmode, haddr, hddir, hdout⟩
  · exact ⟨rfl, rfl, rfl, rfl⟩
  · exact ⟨rfl, rfl, rfl, rfl⟩
  · exact ⟨rfl, rfl, rfl, rfl⟩
  · simp [hd, hv] at hw

end Sys2Proof.Machine

/-! ### The obligations -/

namespace Sys2Proof.Proofs.ResetFamily

open Sys2Proof.Machine

/-- Settles O33: the steps of a waiting block keep the bus registers, and the lines follow those. -/
theorem busQuietWhileWaiting : Obligations.BusQuietWhileWaiting :=
  fun _ _ hrst hw h => (sameBus_step hrst hw h).lines

/-- Settles O6: the strobes, the data lines and the ports follow the registers that `Reset()` writes. -/
theorem resetEdgeApplies : Obligations.ResetEdgeApplies := by
  refine ⟨rfl, fun s hr => ⟨cmdReady_of_rst hr, ?_⟩⟩
  obtain ⟨t, hs, ht⟩ := step_applies_reset hr
  have hrd : t.rd = true := by simp [State.rd, ht.mode]
  have hwr : t.wr = false := by simp [State.wr, ht.mode]
  exact ⟨t, hs, ht.mode, hrd, hwr, ht.ddir, (dataPort_input ht.ddir).2, ht.dstate, ht.phase,
    ht.status, ht.rspValid, ht.rspValid, ht.settleCnt, cmdReady_of_idle ht.dstate, ht.addr, ht.dout,
    ht.cmd, ht.rsp, ht.cur, ht.endAddr, ht.bank, ht.nbanks, ht.romcode, ht.trace, ht.rx⟩

/-- Settles O7: reset is the same edge at every position of a command, and the block it leaves in Idle takes the
next byte on offer. -/
theorem resetStopsCommand : Obligations.ResetStopsCommand := by
  intro s hr _
  obtain ⟨t, hs, ht⟩ := step_applies_reset hr
  exact ⟨t, hs, ht.dstate, ht.micro, ht.settleCnt, ht.mode, ht.ddir, ht.phase, ht.status, ht.rspValid,
    ht.addr, ht.dout, ht.cmd, ht.rsp, ht.cur, ht.endAddr, ht.bank, ht.nbanks, ht.romcode,
    congrArg responseBytes ht.trace, fun _ hrst hoffer => step_take hrst ht.dstate hoffer⟩

end Sys2Proof.Proofs.ResetFamily
end
